-- ==== Sys2Proof/Word.lean ====
section
/-! DEFINITION. The value types of BTK (00_scope.md R5, R6, R10): Word and Byte, and the two readings of a Word. An Index of R10 is
a mathematical integer, Int. -/

namespace Sys2Proof

/-- The fixed Word width XLEN (R5). -/
abbrev xlen : Nat := 64

/-- Number of bits of a byte lane, and of lanes in a Word (R6). -/
abbrev laneWidth : Nat := 8

/-- The number of byte lanes, XLEN / 8 (R6). -/
abbrev laneCount : Nat := 8

/-- A 64-bit vector, raw pattern or two's-complement value as the operation reads it (R10). -/
abbrev Word := BitVec 64

/-- An 8-bit vector, unsigned (R10). -/
abbrev Byte := BitVec 8

/-- `u(w)` of R10: the unsigned value, in [0, 2^64 - 1]. -/
abbrev unsignedValue (w : Word) : Nat := w.toNat

/-- `s(w)` of R10: the two's-complement value, in [-2^63, 2^63 - 1]. -/
abbrev signedValue (w : Word) : Int := w.toInt

end Sys2Proof
end

