-- ==== Sys2Proof/Config.lean ====
section
/-! DEFINITION. What an implementation of BTK fixes (the index port width, 00_scope.md R7, R8) and the free values of
what the spec leaves unspecified (70_reset_and_hazards.md R92, 93_implementation_defined.md U2). -/

namespace Sys2Proof.Config

/-- IDXW at its default of 32 (R7, 92_eei_decisions.md D4). DESIGN CHOICE, log 1: `State.reset` is the block built with the
default; `State.resetAt` is the block built with any other width. -/
abbrev idxw : Nat := 32

/-- The widths the spec admits for the index ports (R7): IDXW >= 8. -/
abbrev AdmittedWidth (n : Nat) : Prop := 8 ≤ n

/-- Free value (log 2, log 12): what an undriven `op` port carries at the given sample (R92). Safe: no body. -/
opaque undrivenOp : Nat → BitVec 4

/-- Free value (log 2): what an undriven `a` port carries at the given sample (R92). Safe: no body. -/
opaque undrivenA : Nat → Word

/-- Free value (log 2): what an undriven `b` port carries at the given sample (R92). Safe: no body. -/
opaque undrivenB : Nat → Word

/-- Free value (log 2): what an undriven `i0` port of width `n` carries at the given sample (R92).
Safe: no body. -/
opaque undrivenI0 : (n : Nat) → Nat → BitVec n

/-- Free value (log 2): what an undriven `i1` port of width `n` carries at the given sample (R92).
Safe: no body. -/
opaque undrivenI1 : (n : Nat) → Nat → BitVec n

/-- Free value (log 2): what an undriven `i2` port of width `n` carries at the given sample (R92).
Safe: no body. -/
opaque undrivenI2 : (n : Nat) → Nat → BitVec n

end Sys2Proof.Config
end

