-- ==== Sys2Proof/Syntax.lean ====
section
/-! DEFINITION. The requests of BTK: one constructor per row of spec/opcode_table.json with the operands of
30_encoding.md R40, and the port values of one request (R38). -/

namespace Sys2Proof

/-- The ordered sequence of exactly eight Bytes that buildWord takes (R42, 41_bytelane.md R65); the length is not an
operand (R100). -/
structure ByteSeq where
  b0 : Byte
  b1 : Byte
  b2 : Byte
  b3 : Byte
  b4 : Byte
  b5 : Byte
  b6 : Byte
  b7 : Byte
deriving DecidableEq, Repr

/-- `bytes[k]` of R42, for k in [0, 7]. -/
def ByteSeq.at (bs : ByteSeq) : Fin 8 → Byte
  | 0 => bs.b0
  | 1 => bs.b1
  | 2 => bs.b2
  | 3 => bs.b3
  | 4 => bs.b4
  | 5 => bs.b5
  | 6 => bs.b6
  | 7 => bs.b7

/-- The operations, with the source's operand names, order and types (R39, R40). -/
inductive Instr where
  /-- `op` 0 (R65). -/
  | buildWord (bytes : ByteSeq)
  /-- `op` 1 (R66). -/
  | getByte (source : Word) (byteIndex : Int)
  /-- `op` 2 (R53). -/
  | getBits (source : Word) (low high : Int)
  /-- `op` 3 (R56). -/
  | setBits (source : Word) (low high : Int)
  /-- `op` 4 (R57). -/
  | clearBits (source : Word) (low high : Int)
  /-- `op` 5 (R60). -/
  | copyBits (source dest : Word) (srcLow dstLow length : Int)
  /-- `op` 6 (R68). -/
  | setByte (source : Word) (byteIndex : Int)
  /-- `op` 7 (R71). -/
  | sign (source : Word)
  /-- `op` 8 (R72). -/
  | addWouldOverflow (op1 op2 : Word)
  /-- `op` 9 (R75); `op1` is the subtrahend. -/
  | subWouldOverflow (op1 op2 : Word)
  /-- `op` 10 and 11 (R47): `x` is the select code's bit 0, which the row leaves open (log 9). -/
  | reserved101x (x : BitVec 1)
  /-- `op` 12 to 15 (R47): `xx` is the select code's bits 1..0, which the row leaves open (log 9). -/
  | reserved11xx (xx : BitVec 2)
deriving DecidableEq, Repr

/-- One value of the input ports at index width `n` (R16, R38): what the requester presents. -/
structure Request (n : Nat) where
  op : BitVec 4
  a : Word
  b : Word
  i0 : BitVec n
  i1 : BitVec n
  i2 : BitVec n
deriving DecidableEq, Repr

/-- The result types of R39 and R10. -/
inductive ResultType where
  | word
  | bit
  | bool
deriving DecidableEq, Repr

/-- A row of spec/opcode_table.json: its mnemonic, and mask and match over the low four bits of `req` (R41, R47). -/
structure OpcodeRow where
  mnemonic : String
  mask : BitVec 4
  code : BitVec 4
deriving DecidableEq, Repr

end Sys2Proof
end

