-- ==== Sys2Proof/WellFormed.lean ====
section
/-! DEFINITION. Which instructions a request can carry at index width `n` (30_encoding.md R44, R50): every Index operand
lies in the interval an `n`-bit signed port represents. -/

namespace Sys2Proof

/-- The interval of R44 and R50: [-2^(IDXW-1), 2^(IDXW-1) - 1]. -/
def indexFits (n : Nat) (i : Int) : Bool :=
  decide (-(2 ^ (n - 1) : Int) ≤ i ∧ i ≤ 2 ^ (n - 1) - 1)

/-- Every Index operand is one the port can carry (R50: an assembler rejects the others). Word, Byte and code operands
are in range by type. -/
def Instr.wellFormed (n : Nat) : Instr → Bool
  | .buildWord _ => true
  | .getByte _ byteIndex => indexFits n byteIndex
  | .getBits _ low high => indexFits n low && indexFits n high
  | .setBits _ low high => indexFits n low && indexFits n high
  | .clearBits _ low high => indexFits n low && indexFits n high
  | .copyBits _ _ srcLow dstLow length => indexFits n srcLow && indexFits n dstLow && indexFits n length
  | .setByte _ byteIndex => indexFits n byteIndex
  | .sign _ => true
  | .addWouldOverflow _ _ => true
  | .subWouldOverflow _ _ => true
  | .reserved101x _ => true
  | .reserved11xx _ => true

end Sys2Proof
end

