-- ==== Sys2Proof/Decode.lean ====
section
/-! DEFINITION. Request packing (30_encoding.md R41), operation select (R39, R47), operand decoding (R40, R42, R44), the
encoder that writes canonical requests (R43), and the opcode table. -/

namespace Sys2Proof

/-- `idx(v)` of R44: an index port read as a two's-complement integer. -/
def idx {n : Nat} (v : BitVec n) : Int := v.toInt

/-- The port value that carries an Index, the inverse of `idx` on the interval of R44. -/
def indexPort (n : Nat) (i : Int) : BitVec n := BitVec.ofInt n i

/-- Lane k of a Word, bits 8k+7..8k (20_memory.md R31). -/
def lane (w : Word) (k : Fin 8) : Byte := w.extractLsb' (8 * k.val) 8

/-- buildWord's operand as carried on port `a`: `bytes[k] = a[8k+7:8k]` (R42). -/
def carriedBytes (a : Word) : ByteSeq :=
  { b0 := lane a 0, b1 := lane a 1, b2 := lane a 2, b3 := lane a 3
    b4 := lane a 4, b5 := lane a 5, b6 := lane a 6, b7 := lane a 7 }

/-- The Word that carries eight Bytes on port `a` (R42), each moved up to its lane. -/
def carryBytes (bs : ByteSeq) : Word :=
  bs.b0.setWidth 64 ||| bs.b1.setWidth 64 <<< 8 ||| bs.b2.setWidth 64 <<< 16 ||| bs.b3.setWidth 64 <<< 24
    ||| bs.b4.setWidth 64 <<< 32 ||| bs.b5.setWidth 64 <<< 40 ||| bs.b6.setWidth 64 <<< 48
    ||| bs.b7.setWidth 64 <<< 56

/-- The row of R39 and R47 that `op` selects, with the operands that R40 takes from the ports; ports marked "-" are not
read (R19, R43). Total: every request is some operation's (R48). -/
def decodeRequest {n : Nat} (r : Request n) : Instr :=
  match r.op.toNat with
  | 0 => .buildWord (carriedBytes r.a)
  | 1 => .getByte r.a (idx r.i0)
  | 2 => .getBits r.a (idx r.i0) (idx r.i1)
  | 3 => .setBits r.a (idx r.i0) (idx r.i1)
  | 4 => .clearBits r.a (idx r.i0) (idx r.i1)
  | 5 => .copyBits r.a r.b (idx r.i0) (idx r.i1) (idx r.i2)
  | 6 => .setByte r.a (idx r.i0)
  | 7 => .sign r.a
  | 8 => .addWouldOverflow r.a r.b
  | 9 => .subWouldOverflow r.a r.b
  | 10 => .reserved101x (r.op.extractLsb' 0 1)
  | 11 => .reserved101x (r.op.extractLsb' 0 1)
  | _ => .reserved11xx (r.op.extractLsb' 0 2)

/-- The number of bits of `req`, 132 + 3*IDXW (R41). -/
abbrev requestWidth (n : Nat) : Nat := 132 + 3 * n

/-- The fields of the packed request (R41), `op` in the least significant position. -/
def unpackRequest (n : Nat) (req : BitVec (requestWidth n)) : Request n :=
  { op := req.extractLsb' 0 4
    a := req.extractLsb' 4 64
    b := req.extractLsb' 68 64
    i0 := req.extractLsb' 132 n
    i1 := req.extractLsb' (132 + n) n
    i2 := req.extractLsb' (132 + 2 * n) n }

/-- `req = {i2, i1, i0, b, a, op}` (R41). -/
def packRequest {n : Nat} (r : Request n) : BitVec (requestWidth n) :=
  BitVec.cast (by simp only [requestWidth]; omega) (r.i2 ++ (r.i1 ++ (r.i0 ++ (r.b ++ (r.a ++ r.op)))))

/-- Why a number is no packed request. -/
inductive DecodeError where
  /-- The number has a bit set above the 132 + 3*IDXW bits of `req` (log 8). Safe: no request has such a bit. -/
  | requestTooWide
deriving DecidableEq, Repr

/-- Decoding of any number as a packed request at index width `n` (R41): rejects by name what is wider than `req`. -/
def decodeNumber (n req : Nat) : Except DecodeError Instr :=
  if req < 2 ^ requestWidth n then .ok (decodeRequest (unpackRequest n (BitVec.ofNat _ req)))
  else .error .requestTooWide

/-- The select code of an instruction (R39, R47). -/
def Instr.opcode : Instr → BitVec 4
  | .buildWord _ => 0#4
  | .getByte _ _ => 1#4
  | .getBits _ _ _ => 2#4
  | .setBits _ _ _ => 3#4
  | .clearBits _ _ _ => 4#4
  | .copyBits _ _ _ _ _ => 5#4
  | .setByte _ _ => 6#4
  | .sign _ => 7#4
  | .addWouldOverflow _ _ => 8#4
  | .subWouldOverflow _ _ => 9#4
  | .reserved101x x => 0b101#3 ++ x
  | .reserved11xx xx => 0b11#2 ++ xx

/-- The canonical request of an instruction at index width `n`: operands on the ports of R40, unused fields zero
(R43). -/
def encodeRequest (n : Nat) (i : Instr) : Request n :=
  match i with
  | .buildWord bytes => ⟨i.opcode, carryBytes bytes, 0, 0, 0, 0⟩
  | .getByte source byteIndex => ⟨i.opcode, source, 0, indexPort n byteIndex, 0, 0⟩
  | .getBits source low high => ⟨i.opcode, source, 0, indexPort n low, indexPort n high, 0⟩
  | .setBits source low high => ⟨i.opcode, source, 0, indexPort n low, indexPort n high, 0⟩
  | .clearBits source low high => ⟨i.opcode, source, 0, indexPort n low, indexPort n high, 0⟩
  | .copyBits source dest srcLow dstLow length =>
    ⟨i.opcode, source, dest, indexPort n srcLow, indexPort n dstLow, indexPort n length⟩
  | .setByte source byteIndex => ⟨i.opcode, source, 0, indexPort n byteIndex, 0, 0⟩
  | .sign source => ⟨i.opcode, source, 0, 0, 0, 0⟩
  | .addWouldOverflow op1 op2 => ⟨i.opcode, op1, op2, 0, 0, 0⟩
  | .subWouldOverflow op1 op2 => ⟨i.opcode, op1, op2, 0, 0, 0⟩
  | .reserved101x _ => ⟨i.opcode, 0, 0, 0, 0, 0⟩
  | .reserved11xx _ => ⟨i.opcode, 0, 0, 0, 0, 0⟩

/-- The packed canonical request of an instruction (R41, R43). -/
def encode (n : Nat) (i : Instr) : BitVec (requestWidth n) := packRequest (encodeRequest n i)

/-- Which of the ports `a`, `b`, `i0`, `i1`, `i2` the operation of a select code uses (R40; every other is marked
"-"). -/
structure UsedPorts where
  a : Bool
  b : Bool
  i0 : Bool
  i1 : Bool
  i2 : Bool
deriving DecidableEq, Repr

/-- The table of R40, by select code. -/
def usedPorts (op : BitVec 4) : UsedPorts :=
  match op.toNat with
  | 0 => ⟨true, false, false, false, false⟩
  | 1 => ⟨true, false, true, false, false⟩
  | 2 => ⟨true, false, true, true, false⟩
  | 3 => ⟨true, false, true, true, false⟩
  | 4 => ⟨true, false, true, true, false⟩
  | 5 => ⟨true, true, true, true, true⟩
  | 6 => ⟨true, false, true, false, false⟩
  | 7 => ⟨true, false, false, false, false⟩
  | 8 => ⟨true, true, false, false, false⟩
  | 9 => ⟨true, true, false, false, false⟩
  | _ => ⟨false, false, false, false, false⟩

/-- The request with every unused field zero (R43, the canonical encoding). -/
def Request.canonical {n : Nat} (r : Request n) : Request n :=
  let used := usedPorts r.op
  { op := r.op
    a := if used.a then r.a else 0
    b := if used.b then r.b else 0
    i0 := if used.i0 then r.i0 else 0
    i1 := if used.i1 then r.i1 else 0
    i2 := if used.i2 then r.i2 else 0 }

/-- Two requests agree on the select code and on every port that it uses (R19, R40, R43). -/
def Request.agreesOnUsed {n : Nat} (r q : Request n) : Prop :=
  r.op = q.op ∧
    ((usedPorts r.op).a = true → r.a = q.a) ∧ ((usedPorts r.op).b = true → r.b = q.b) ∧
    ((usedPorts r.op).i0 = true → r.i0 = q.i0) ∧ ((usedPorts r.op).i1 = true → r.i1 = q.i1) ∧
    ((usedPorts r.op).i2 = true → r.i2 = q.i2)

/-- The rows of spec/opcode_table.json (R39, R41, R47). -/
def opcodeTable : List OpcodeRow :=
  [ ⟨"buildWord", 0xF#4, 0x0#4⟩, ⟨"getByte", 0xF#4, 0x1#4⟩, ⟨"getBits", 0xF#4, 0x2#4⟩
  , ⟨"setBits", 0xF#4, 0x3#4⟩, ⟨"clearBits", 0xF#4, 0x4#4⟩, ⟨"copyBits", 0xF#4, 0x5#4⟩
  , ⟨"setByte", 0xF#4, 0x6#4⟩, ⟨"sign", 0xF#4, 0x7#4⟩, ⟨"addWouldOverflow", 0xF#4, 0x8#4⟩
  , ⟨"subWouldOverflow", 0xF#4, 0x9#4⟩, ⟨"reserved_101x", 0xE#4, 0xA#4⟩, ⟨"reserved_11xx", 0xC#4, 0xC#4⟩ ]

/-- A row recognises a select code by mask and match (R41, R47). -/
def OpcodeRow.recognises (row : OpcodeRow) (op : BitVec 4) : Bool := op &&& row.mask == row.code

/-- The mnemonic of an instruction, as the table spells it (R39). -/
def Instr.mnemonic : Instr → String
  | .buildWord _ => "buildWord"
  | .getByte _ _ => "getByte"
  | .getBits _ _ _ => "getBits"
  | .setBits _ _ _ => "setBits"
  | .clearBits _ _ _ => "clearBits"
  | .copyBits _ _ _ _ _ => "copyBits"
  | .setByte _ _ => "setByte"
  | .sign _ => "sign"
  | .addWouldOverflow _ _ => "addWouldOverflow"
  | .subWouldOverflow _ _ => "subWouldOverflow"
  | .reserved101x _ => "reserved_101x"
  | .reserved11xx _ => "reserved_11xx"

/-- The result type of an instruction (R39, R46). -/
def Instr.resultType : Instr → ResultType
  | .buildWord _ => .word
  | .getByte _ _ => .word
  | .getBits _ _ _ => .word
  | .setBits _ _ _ => .word
  | .clearBits _ _ _ => .word
  | .copyBits _ _ _ _ _ => .word
  | .setByte _ _ => .word
  | .sign _ => .bit
  | .addWouldOverflow _ _ => .bool
  | .subWouldOverflow _ _ => .bool
  | .reserved101x _ => .word
  | .reserved11xx _ => .word

/-- The instruction of the packed request whose low `nbits` bits are those of `w` and whose other bits are 0, at the
default index width (R41; log 8). None where the decoder rejects. -/
def decodeTableWord (nbits w : Nat) : Option Instr :=
  (decodeNumber Config.idxw (w % 2 ^ nbits)).toOption

end Sys2Proof
end

