-- ==== Sys2Proof/Machine/Shifter.lean ====
section
/-! DEFINITION. The barrel shifter, the mask source and the field selector shared by the bit-field and byte-lane families
(00_scope.md R11, R12). -/

namespace Sys2Proof.Machine

/-- `shl(w, n)` of R12. An amount of 64 or more has no value (U1), so the amount is below 64 by type. -/
def shl (w : Word) (n : Fin 64) : Word := w <<< n.val

/-- `lshr(w, n)` of R12, zero-filling. An amount of 64 or more has no value (U1), so the amount is below 64 by type. -/
def lshr (w : Word) (n : Fin 64) : Word := w >>> n.val

/-- `zext_64(v)` of R11. -/
def zext64 {n : Nat} (v : BitVec n) : Word := v.setWidth 64

/-- `ones(n)` of R11, for 0 <= n <= 64: n one bits, zero-extended; no shift by the full width takes part (R96). -/
def ones (n : Fin 65) : Word := zext64 (BitVec.allOnes n.val)

/-- The slice of `len` bits of a Word from bit `lo` up (00_scope.md R9). -/
def slice (w : Word) (lo len : Nat) : BitVec len := w.extractLsb' lo len

/-- The result of a Bit or Bool operation on `y` (30_encoding.md R46): `y[0]` is the bit, all others 0. -/
def zextBool (r : Bool) : Word := zext64 (BitVec.ofBool r)

end Sys2Proof.Machine
end

