-- ==== Sys2Proof/Machine/Operands.lean ====
section
/-! DEFINITION. Validity of Index operands (40_bitfield.md R52, R59; 41_bytelane.md R64) and the field mask (R55). Index
arithmetic is exact, in the integers (30_encoding.md R45). -/

namespace Sys2Proof.Machine

/-- `validRange(low, high)` of R52. -/
abbrev validRange (low high : Int) : Prop := 0 ≤ low ∧ low ≤ high ∧ high ≤ 63

/-- `validByte(i)` of R64. -/
abbrev validByte (i : Int) : Prop := 0 ≤ i ∧ i ≤ 7

/-- `validCopy(srcLow, dstLow, length)` of R59: the six conditions, none of which bounds `length` from below
(90_conflicts.md C4). -/
abbrev validCopy (srcLow dstLow length : Int) : Prop :=
  0 ≤ srcLow ∧ 0 ≤ dstLow ∧ srcLow ≤ 63 ∧ dstLow ≤ 63 ∧ srcLow + length - 1 ≤ 63 ∧ dstLow + length - 1 ≤ 63

/-- The form of `validCopy` that adds no two operands (R59, R97). -/
abbrev validCopyNoSum (srcLow dstLow length : Int) : Prop :=
  0 ≤ srcLow ∧ srcLow ≤ 63 ∧ 0 ≤ dstLow ∧ dstLow ≤ 63 ∧ length ≤ 64 - srcLow ∧ length ≤ 64 - dstLow

/-- The number of bits of a range, in [1, 64] for a valid pair (R52). -/
def rangeLength (low high : Int) : Nat := (high - low + 1).toNat

/-- A valid range has at most 64 bits (R52). -/
theorem rangeLength_lt (low high : Int) (h : validRange low high) : rangeLength low high < 65 := by
  obtain ⟨h0, h1, h2⟩ := h
  unfold rangeLength
  omega

/-- The low index of a valid range is a shift amount (R12, R52). -/
theorem validRange_low_lt (low high : Int) (h : validRange low high) : low.toNat < 64 := by
  obtain ⟨h0, h1, h2⟩ := h
  omega

/-- The destination index of a valid copy is a shift amount (R12, R59). -/
theorem validCopy_dstLow_lt (srcLow dstLow length : Int) (h : validCopy srcLow dstLow length) :
    dstLow.toNat < 64 := by
  obtain ⟨h0, h1, h2, h3, h4, h5⟩ := h
  omega

/-- `fieldMask(low, high)` of R55, defined for a valid pair: bits low..high set. -/
def fieldMask (low high : Int) (h : validRange low high) : Word :=
  shl (ones ⟨rangeLength low high, rangeLength_lt low high h⟩) ⟨low.toNat, validRange_low_lt low high h⟩

end Sys2Proof.Machine
end

