-- ==== Sys2Proof/Machine/BitField.lean ====
section
/-! DEFINITION. The values of the bit-field family: getBits, setBits, clearBits, copyBits (40_bitfield.md). -/

namespace Sys2Proof.Machine

/-- R53: the field low..high right-justified and zero-filled; 0 on an invalid range (Zero-on-invalid). -/
def getBits (source : Word) (low high : Int) : Word :=
  if validRange low high then zext64 (slice source low.toNat (rangeLength low high)) else 0

/-- R56: bits low..high forced to 1; `source` on an invalid range (Identity-on-invalid). -/
def setBits (source : Word) (low high : Int) : Word :=
  if h : validRange low high then source ||| fieldMask low high h else source

/-- R57: bits low..high forced to 0; `source` on an invalid range (Identity-on-invalid). -/
def clearBits (source : Word) (low high : Int) : Word :=
  if h : validRange low high then source &&& ~~~ (fieldMask low high h) else source

/-- R60: the source field OR-ed into the cleared destination field, by composition with the inner validity tests kept
(R61); `dest` on an invalid copy (Identity-on-invalid). -/
def copyBits (source dest : Word) (srcLow dstLow length : Int) : Word :=
  if h : validCopy srcLow dstLow length then
    let field := getBits source srcLow (srcLow + length - 1)
    let shifted := shl field ⟨dstLow.toNat, validCopy_dstLow_lt srcLow dstLow length h⟩
    let cleared := clearBits dest dstLow (dstLow + length - 1)
    cleared ||| shifted
  else dest

/-- The shift amounts of R54 lie in [0, 63] for every valid pair. -/
theorem getBits_shifts_lt (low high : Int) (h : validRange low high) :
    (63 - high).toNat < 64 ∧ (63 - high + low).toNat < 64 := by
  obtain ⟨h0, h1, h2⟩ := h
  omega

/-- The barrel-shifter form of getBits (R54): left by 63 - high, then right by 63 - high + low. -/
def getBitsDatapath (source : Word) (low high : Int) : Word :=
  if h : validRange low high then
    lshr (shl source ⟨(63 - high).toNat, (getBits_shifts_lt low high h).1⟩)
      ⟨(63 - high + low).toNat, (getBits_shifts_lt low high h).2⟩
  else 0

/-- The mask as a shifter computes it (R58, R96): the whole word is a case of its own, and otherwise
`shl(1, n) - 1` is moved up by `low`. -/
def fieldMaskDatapath (low high : Int) (h : validRange low high) : Word :=
  if hn : rangeLength low high = 64 then BitVec.allOnes 64
  else
    shl (shl 1 ⟨rangeLength low high, by have := rangeLength_lt low high h; omega⟩ - 1)
      ⟨low.toNat, validRange_low_lt low high h⟩

end Sys2Proof.Machine
end

