-- ==== Sys2Proof/Machine/ByteLane.lean ====
section
/-! DEFINITION. The values of the byte-lane family: buildWord, getByte, setByte (41_bytelane.md). -/

namespace Sys2Proof.Machine

/-- R65: `bytes[7]` is the most significant Byte, `bytes[0]` the least. -/
def buildWord (bytes : ByteSeq) : Word :=
  bytes.b7 ++ bytes.b6 ++ bytes.b5 ++ bytes.b4 ++ bytes.b3 ++ bytes.b2 ++ bytes.b1 ++ bytes.b0

/-- R66: the Byte of lane `byteIndex` right-justified; 0 on an invalid index (Zero-on-invalid). -/
def getByte (source : Word) (byteIndex : Int) : Word :=
  if validByte byteIndex then zext64 (slice source (8 * byteIndex).toNat 8) else 0

/-- R68: lane `byteIndex` set to 0xFF through setBits; `source` on an invalid index (Identity-on-invalid). -/
def setByte (source : Word) (byteIndex : Int) : Word :=
  if validByte byteIndex then setBits source (8 * byteIndex) (8 * byteIndex + 7) else source

/-- The shift amounts of R67 are in [0, 63] for every valid byte index. -/
theorem getByte_shift_lt (byteIndex : Int) (h : validByte byteIndex) : (56 - 8 * byteIndex).toNat < 64 := by
  obtain ⟨h0, h1⟩ := h
  omega

/-- The lane multiplexer as the shifter of getBits with L = 56 - 8*i and R = 56 (R67). -/
def getByteDatapath (source : Word) (byteIndex : Int) : Word :=
  if h : validByte byteIndex then
    lshr (shl source ⟨(56 - 8 * byteIndex).toNat, getByte_shift_lt byteIndex h⟩) 56
  else 0

end Sys2Proof.Machine
end

