-- ==== Sys2Proof/Machine/Flags.lean ====
section
/-! DEFINITION. The one-bit verdicts of the overflow detector (42_sign_overflow.md). BTK retains no flag (10_state.md
R22): a verdict exists only as the result of the request that asks for it. -/

namespace Sys2Proof.Machine

/-- Bit 63 of a Word: 1 is negative (R71). -/
def signBit (w : Word) : Bool := w.getLsbD 63

/-- The verdict of R72, on the sum modulo 2^64 (00_scope.md R13). -/
def addOverflows (op1 op2 : Word) : Bool :=
  let sum := op1 + op2
  signBit op1 == signBit op2 && signBit sum != signBit op1

/-- The verdict of R75 on `op2 - op1`, second operand minus first (R76), modulo 2^64 (00_scope.md R13). -/
def subOverflows (op1 op2 : Word) : Bool :=
  let result := op2 - op1
  (!signBit op1 && signBit op2 && !signBit result) || (signBit op1 && !signBit op2 && signBit result)

end Sys2Proof.Machine
end

