-- ==== Sys2Proof/Machine/Block.lean ====
section
/-! DEFINITION. The block as the combinational function F of its ports (10_state.md R18), row by row from the table of
30_encoding.md R39, R40, R46, R47, at any index width. It does not pass through Instr or exec. -/

namespace Sys2Proof.Machine

/-- The result of the reserved select codes: `y <- 0`, whatever the other ports carry (R47; log 7). -/
def reservedResult : Word := 0

/-- `F(op, a, b, i0, i1, i2)` of R18: index ports decoded by R44, the row picked by `op`, its rule applied to the
operands of R40, the result encoded by R46. -/
def blockFunction {n : Nat} (r : Request n) : Word :=
  match r.op.toNat with
  | 0 => buildWord (carriedBytes r.a)
  | 1 => getByte r.a (idx r.i0)
  | 2 => getBits r.a (idx r.i0) (idx r.i1)
  | 3 => setBits r.a (idx r.i0) (idx r.i1)
  | 4 => clearBits r.a (idx r.i0) (idx r.i1)
  | 5 => copyBits r.a r.b (idx r.i0) (idx r.i1) (idx r.i2)
  | 6 => setByte r.a (idx r.i0)
  | 7 => zextBool (signBit r.a)
  | 8 => zextBool (addOverflows r.a r.b)
  | 9 => zextBool (subOverflows r.a r.b)
  | _ => reservedResult

/-- What ports that nobody drives carry at a sample: free values, one per port and sample (70_reset_and_hazards.md R92;
log 2, log 3). -/
def undrivenRequest (n sample : Nat) : Request n :=
  { op := Config.undrivenOp sample
    a := Config.undrivenA sample
    b := Config.undrivenB sample
    i0 := Config.undrivenI0 n sample
    i1 := Config.undrivenI1 n sample
    i2 := Config.undrivenI2 n sample }

end Sys2Proof.Machine
end

