-- ==== Sys2Proof/Machine/State.lean ====
section
/-! DEFINITION. The state of BTK: its ports and nothing retained (10_state.md R15 to R27), the reasons a step could stop,
and the block after power-up. -/

namespace Sys2Proof.Machine

/-- An input port: not yet driven by the requester (70_reset_and_hazards.md R92), or carrying a value (10_state.md
R16). -/
inductive Port (w : Nat) where
  /-- The requester has not yet driven this port; what it carries is unspecified. -/
  | undriven
  /-- The requester drives this value. -/
  | driven (v : BitVec w)
deriving DecidableEq, Repr

/-- The reasons for a fault: none. BTK raises nothing (60_exceptions.md R79, log 11), so the type has no constructor and
no step can end in a fault. -/
inductive Fault where
deriving DecidableEq, Repr

/-- The reasons for a refusal. -/
inductive Refusal where
  /-- The host's reason for an instruction with no meaning yet. Raised by no one: every instruction has its meaning, and
  no request may be refused (R79, 30_encoding.md R48; log 11). Safe. -/
  | notModelled (mnemonic : String)
deriving DecidableEq, Repr

/-- All the values that exist in the block (10_state.md section 6), the ports of R16 and R17, with the parameter its index
ports are built to. -/
structure State where
  /-- IDXW of this block (00_scope.md R7, log 1): a parameter, which no operation changes. -/
  idxw : Nat
  /-- Operation select (R16, R39). -/
  op : Port 4
  /-- First Word operand (R16, R40). -/
  a : Port 64
  /-- Second Word operand (R16, R40). -/
  b : Port 64
  /-- First Index operand (R16, R40). -/
  i0 : Port idxw
  /-- Second Index operand (R16, R40). -/
  i1 : Port idxw
  /-- Third Index operand (R16, R40). -/
  i2 : Port idxw
  /-- The result port (R17), F of the input ports at every instant (R18, log 5). -/
  y : Word
  /-- The model's own counter, which picks the free values of undriven ports (log 3). -/
  samples : Nat
deriving DecidableEq, Repr

/-- A block of index width `n` after power-up: no port driven yet, and `y` F of whatever the ports then carry (R27, R91,
R92; log 2, log 3). -/
def State.resetAt (n : Nat) : State :=
  { idxw := n
    op := .undriven, a := .undriven, b := .undriven, i0 := .undriven, i1 := .undriven, i2 := .undriven
    y := blockFunction (undrivenRequest n 0), samples := 0 }

/-- The block after power-up at the default index width (R7, R27). -/
def State.reset : State := State.resetAt Config.idxw

end Sys2Proof.Machine
end

