-- ==== Sys2Proof/Machine/Ops.lean ====
section
/-! DEFINITION. The operations over the ports: what the block reads from them, the one write it makes, and what the
requester does to them (10_state.md R16 to R21, 70_reset_and_hazards.md R92, R95). There is no memory, register file or
exception entry to operate on (R15, R28, R79, R84). -/

namespace Sys2Proof.Machine

/-- What a port carries: the driven value, or the given unspecified one where it is not driven yet (R92). -/
def Port.value {w : Nat} (p : Port w) (free : BitVec w) : BitVec w :=
  match p with
  | .undriven => free
  | .driven v => v

/-- Whether the requester drives the port (R92). -/
def Port.isDriven {w : Nat} (p : Port w) : Bool :=
  match p with
  | .undriven => false
  | .driven _ => true

/-- Whether every port is driven. -/
def State.allDriven (s : State) : Bool :=
  s.op.isDriven && s.a.isDriven && s.b.isDriven && s.i0.isDriven && s.i1.isDriven && s.i2.isDriven

/-- The request the ports carry now (R38), undriven ones at free values of this sample (R92; log 2, log 12). -/
def State.request (s : State) : Request s.idxw :=
  let free := undrivenRequest s.idxw s.samples
  { op := s.op.value free.op
    a := s.a.value free.a
    b := s.b.value free.b
    i0 := s.i0.value free.i0
    i1 := s.i1.value free.i1
    i2 := s.i2.value free.i2 }

/-- The ports at their next sample: fresh free values where some port is undriven, nothing changed where all are driven
(log 3). -/
def State.sampled (s : State) : State :=
  { s with samples := if s.allDriven then s.samples else s.samples + 1 }

/-- `y <- v` of 00_scope.md R11 and 10_state.md R17: the only write the block makes (60_exceptions.md R89). -/
def State.driveY (s : State) (v : Word) : State := { s with y := v }

/-- `y` follows the inputs as they stand (R18, R95): after any change of an input it is F of them. -/
def State.settle (s : State) : State := s.sampled.driveY (blockFunction s.sampled.request)

/-- The requester drives `op` (R21), and `y` follows (R95). -/
def State.driveOp (s : State) (v : BitVec 4) : State := State.settle { s with op := .driven v }

/-- The requester drives `a` (R21), and `y` follows (R95). -/
def State.driveA (s : State) (v : Word) : State := State.settle { s with a := .driven v }

/-- The requester drives `b` (R21), and `y` follows (R95). -/
def State.driveB (s : State) (v : Word) : State := State.settle { s with b := .driven v }

/-- The requester drives `i0` (R21), and `y` follows (R95). -/
def State.driveI0 (s : State) (v : BitVec s.idxw) : State := State.settle { s with i0 := .driven v }

/-- The requester drives `i1` (R21), and `y` follows (R95). -/
def State.driveI1 (s : State) (v : BitVec s.idxw) : State := State.settle { s with i1 := .driven v }

/-- The requester drives `i2` (R21), and `y` follows (R95). -/
def State.driveI2 (s : State) (v : BitVec s.idxw) : State := State.settle { s with i2 := .driven v }

/-- A block whose every port is driven with the values of a request. -/
def State.carrying {n : Nat} (r : Request n) (y : Word) (samples : Nat) : State :=
  { idxw := n
    op := .driven r.op, a := .driven r.a, b := .driven r.b, i0 := .driven r.i0, i1 := .driven r.i1, i2 := .driven r.i2
    y := y, samples := samples }

/-- The requester presents a whole request at once (R38), and `y` follows (R95). -/
def State.present (s : State) (r : Request s.idxw) : State := (State.carrying r s.y s.samples).settle

/-- The requester presents a packed request (30_encoding.md R41; log 8). -/
def State.presentNumber (s : State) (req : Nat) : State := s.present (unpackRequest s.idxw (BitVec.ofNat _ req))

end Sys2Proof.Machine
end

