-- ==== Sys2Proof/Machine/BitFieldExec.lean ====
section
/-! DEFINITION. The meanings of the bit-field family: each drives `y` with its value (40_bitfield.md). -/

namespace Sys2Proof.Machine

/-- getBits (R53). -/
def execGetBits (source : Word) (low high : Int) (s : State) : Host.Outcome State Fault Refusal :=
  .next (s.driveY (getBits source low high))

/-- setBits (R56, R58). -/
def execSetBits (source : Word) (low high : Int) (s : State) : Host.Outcome State Fault Refusal :=
  .next (s.driveY (setBits source low high))

/-- clearBits (R57, R58). -/
def execClearBits (source : Word) (low high : Int) (s : State) : Host.Outcome State Fault Refusal :=
  .next (s.driveY (clearBits source low high))

/-- copyBits (R60, R61). -/
def execCopyBits (source dest : Word) (srcLow dstLow length : Int) (s : State) :
    Host.Outcome State Fault Refusal :=
  .next (s.driveY (copyBits source dest srcLow dstLow length))

end Sys2Proof.Machine
end

