-- ==== Sys2Proof/Machine/ByteLaneExec.lean ====
section
/-! DEFINITION. The meanings of the byte-lane family: each drives `y` with its value (41_bytelane.md). -/

namespace Sys2Proof.Machine

/-- buildWord (R65). -/
def execBuildWord (bytes : ByteSeq) (s : State) : Host.Outcome State Fault Refusal :=
  .next (s.driveY (buildWord bytes))

/-- getByte (R66). -/
def execGetByte (source : Word) (byteIndex : Int) (s : State) : Host.Outcome State Fault Refusal :=
  .next (s.driveY (getByte source byteIndex))

/-- setByte (R68). -/
def execSetByte (source : Word) (byteIndex : Int) (s : State) : Host.Outcome State Fault Refusal :=
  .next (s.driveY (setByte source byteIndex))

end Sys2Proof.Machine
end

