-- ==== Sys2Proof/Machine/Reserved.lean ====
section
/-! DEFINITION. The reserved select codes 10 to 15 (30_encoding.md R47, log 7). -/

namespace Sys2Proof.Machine

/-- Codes 10 and 11 (R47). -/
def execReserved101x (_x : BitVec 1) (s : State) : Host.Outcome State Fault Refusal :=
  .next (s.driveY reservedResult)

/-- Codes 12 to 15 (R47). -/
def execReserved11xx (_xx : BitVec 2) (s : State) : Host.Outcome State Fault Refusal :=
  .next (s.driveY reservedResult)

end Sys2Proof.Machine
end

