-- ==== Sys2Proof/Machine/SignOverflow.lean ====
section
/-! DEFINITION. The sign and overflow family: sign, addWouldOverflow, subWouldOverflow (42_sign_overflow.md). -/

namespace Sys2Proof.Machine

/-- sign (R71): bit 63 of `source`, zero-extended (30_encoding.md R46). -/
def execSign (source : Word) (s : State) : Host.Outcome State Fault Refusal :=
  .next (s.driveY (zextBool (signBit source)))

/-- addWouldOverflow (R72): the verdict on `op1 + op2`; the sum is not output. -/
def execAddWouldOverflow (op1 op2 : Word) (s : State) : Host.Outcome State Fault Refusal :=
  .next (s.driveY (zextBool (addOverflows op1 op2)))

/-- subWouldOverflow (R75, R76): the verdict on `op2 - op1`; the difference is not output. -/
def execSubWouldOverflow (op1 op2 : Word) (s : State) : Host.Outcome State Fault Refusal :=
  .next (s.driveY (zextBool (subOverflows op1 op2)))

end Sys2Proof.Machine
end

