-- ==== Sys2Proof/Machine/Dispatch.lean ====
section
/-! DEFINITION. The operation select: one arm per constructor of Instr (30_encoding.md R39). -/

namespace Sys2Proof.Machine

/-- The effect of the selected operation (R39). -/
def exec (i : Instr) (s : State) : Host.Outcome State Fault Refusal :=
  match i with
  | .buildWord bytes => Sys2Proof.Machine.execBuildWord bytes s
  | .getByte source byteIndex => Sys2Proof.Machine.execGetByte source byteIndex s
  | .getBits source low high => Sys2Proof.Machine.execGetBits source low high s
  | .setBits source low high => Sys2Proof.Machine.execSetBits source low high s
  | .clearBits source low high => Sys2Proof.Machine.execClearBits source low high s
  | .copyBits source dest srcLow dstLow length => Sys2Proof.Machine.execCopyBits source dest srcLow dstLow length s
  | .setByte source byteIndex => Sys2Proof.Machine.execSetByte source byteIndex s
  | .sign source => Sys2Proof.Machine.execSign source s
  | .addWouldOverflow op1 op2 => Sys2Proof.Machine.execAddWouldOverflow op1 op2 s
  | .subWouldOverflow op1 op2 => Sys2Proof.Machine.execSubWouldOverflow op1 op2 s
  | .reserved101x x => Sys2Proof.Machine.execReserved101x x s
  | .reserved11xx xx => Sys2Proof.Machine.execReserved11xx xx s

end Sys2Proof.Machine
end

