-- ==== Sys2Proof/Machine/Step.lean ====
section
/-! DEFINITION. One step of BTK: the request on the ports and its result (10_state.md R18, 70_reset_and_hazards.md
R102). -/

namespace Sys2Proof.Machine

/-- The block answers the request its ports carry: decode, select, drive `y` (30_encoding.md R39). -/
def step (s : State) : Host.Outcome State Fault Refusal :=
  exec (decodeRequest s.sampled.request) s.sampled

/-- The requester presents the packed request whose low `nbits` bits are those of `w` and whose other bits are 0, on all
six ports (30_encoding.md R41; log 6, log 8). -/
def State.withFetchWord (s : State) (nbits w : Nat) : State := s.presentNumber (w % 2 ^ nbits)

end Sys2Proof.Machine
end

