-- ==== Sys2Proof/Machine/Driving.lean ====
section
/-! DEFINITION. What the requester does to the ports, what the ports then carry, and the states that power-up, the
requester and the block's steps lead to (10_state.md R16 to R21, 70_reset_and_hazards.md R91, R92, R95). -/

namespace Sys2Proof.Machine

/-- One operation of the requester on a block of index width `n` (10_state.md R21, 30_encoding.md R38). -/
inductive Drive (n : Nat) where
  | op (v : BitVec 4)
  | a (v : Word)
  | b (v : Word)
  | i0 (v : BitVec n)
  | i1 (v : BitVec n)
  | i2 (v : BitVec n)
  | request (r : Request n)
deriving DecidableEq, Repr

/-- The block after one operation of the requester. -/
def State.drive (s : State) (d : Drive s.idxw) : State :=
  match d with
  | .op v => s.driveOp v
  | .a v => s.driveA v
  | .b v => s.driveB v
  | .i0 v => s.driveI0 v
  | .i1 v => s.driveI1 v
  | .i2 v => s.driveI2 v
  | .request r => s.present r

/-- A block of index width `n` at some instant: after power-up, after an operation of the requester, or after a step. -/
inductive Reachable (n : Nat) : State → Prop where
  | powerUp : Reachable n (State.resetAt n)
  | driven {s : State} (d : Drive s.idxw) : Reachable n s → Reachable n (s.drive d)
  | stepped {s t : State} : Reachable n s → step s = .next t → Reachable n t

/-- The output has settled: `y` is F of what the ports carry (R18). -/
def State.settled (s : State) : Prop := s.y = blockFunction s.request

/-- Every port of `s` is driven, with the values of `r`; so `s` has the index width of `r`. -/
def State.carries {n : Nat} (s : State) (r : Request n) : Prop := ∃ y samples, s = State.carrying r y samples

/-- Every port that the driven select code uses is driven with the value of `r`; the other ports may be left undriven or
carry anything (R19, R92). -/
def State.drivesUsed (s : State) (r : Request s.idxw) : Prop :=
  s.op = .driven r.op ∧
    ((usedPorts r.op).a = true → s.a = .driven r.a) ∧ ((usedPorts r.op).b = true → s.b = .driven r.b) ∧
    ((usedPorts r.op).i0 = true → s.i0 = .driven r.i0) ∧ ((usedPorts r.op).i1 = true → s.i1 = .driven r.i1) ∧
    ((usedPorts r.op).i2 = true → s.i2 = .driven r.i2)

/-- A port carries `v` if it is driven with `v`, and may carry any `v` while undriven (R92). -/
def Port.mayCarry {w : Nat} (p : Port w) (v : BitVec w) : Prop := p = .undriven ∨ p = .driven v

/-- `r` is one of the requests the ports may be carrying (R92). -/
def State.mayCarry (s : State) (r : Request s.idxw) : Prop :=
  s.op.mayCarry r.op ∧ s.a.mayCarry r.a ∧ s.b.mayCarry r.b ∧
    s.i0.mayCarry r.i0 ∧ s.i1.mayCarry r.i1 ∧ s.i2.mayCarry r.i2

/-- `t` is `s` but for `y` and the model's counter: the index width and what the requester drives are the same (R16,
R21). -/
def State.sameInputs (s t : State) : Prop := ∃ y samples, t = { s with y := y, samples := samples }

end Sys2Proof.Machine
end

