-- ==== Sys2Proof/Machine/Assembler.lean ====
section
/-! DEFINITION. The assembler syntax of 30_encoding.md R50 and the second spellings of R51: from the characters of one
line to the instruction it stands for, and the written forms of results and requests (R9, R41, R50). Details the rule
leaves open are in log 13. -/

namespace Sys2Proof.Machine

/-- A mnemonic or a name bound to an earlier result (R50). -/
abbrev Name := List Char

/-- The pieces of a line of R50. -/
inductive Token where
  | word (chars : List Char)
  | lparen
  | rparen
  | lbrace
  | rbrace
  | comma
  | equals
  | minus
  | unknown
deriving DecidableEq, Repr

/-- An operand as written: a literal with its digits counted, or a name (R50). -/
inductive Scalar where
  | hex (digits value : Nat)
  | dec (negative : Bool) (value : Nat)
  | name (n : Name)
deriving DecidableEq, Repr

/-- An operand of a call: a scalar, or the braced Bytes of buildWord (R50). -/
inductive Arg where
  | scalar (x : Scalar)
  | bytes (xs : List Scalar)
deriving DecidableEq, Repr

/-- One line of R50: `[name =] mnemonic(operand, ...)`. -/
structure Call where
  target : Option Name
  mnemonic : Name
  args : List Arg
deriving DecidableEq, Repr

/-- Why a line is rejected. These are the assembler's, not outcomes of the block. -/
inductive AsmError where
  /-- The line has not the form of R50. -/
  | badForm
  /-- The mnemonic names no operation and no second spelling of one (R50, R51). -/
  | unknownMnemonic
  /-- The operands are not those of the operation in number or kind (R50). -/
  | wrongOperands
  /-- A Word literal of more than 16 hexadecimal digits, outside [0, 2^64 - 1], or signed (R50). -/
  | wordOutOfRange
  /-- A Byte literal outside [0, 255] (R50). -/
  | byteOutOfRange
  /-- An Index literal that no port value represents (R50). -/
  | indexOutOfRange
  /-- A name that no earlier line binds (R50). -/
  | unboundName
deriving DecidableEq, Repr

/-- Letters, digits and `_` make words. -/
def isWordChar (c : Char) : Bool := c.isAlphanum || c == '_'

/-- The token of a character outside words, put before the rest; white space separates and is dropped. Codes 123 and 125
are the braces. -/
def punctuation (c : Char) (rest : List Token) : List Token :=
  if c == ' ' || c == '\t' then rest
  else if c == '(' then .lparen :: rest
  else if c == ')' then .rparen :: rest
  else if c.toNat == 123 then .lbrace :: rest
  else if c.toNat == 125 then .rbrace :: rest
  else if c == ',' then .comma :: rest
  else if c == '=' then .equals :: rest
  else if c == '-' then .minus :: rest
  else .unknown :: rest

/-- The word read so far, if any, put before the rest. -/
def endWord (reversed : List Char) (rest : List Token) : List Token :=
  if reversed.isEmpty then rest else .word reversed.reverse :: rest

/-- The tokens of a line, with the word being read in reverse. -/
def tokensFrom : List Char → List Char → List Token
  | [], reversed => endWord reversed []
  | c :: cs, reversed =>
    if isWordChar c then tokensFrom cs (c :: reversed) else endWord reversed (punctuation c (tokensFrom cs []))

/-- The tokens of a line. -/
def tokens (line : List Char) : List Token := tokensFrom line []

/-- The value of a hexadecimal digit. -/
def hexDigit (c : Char) : Option Nat :=
  if c.isDigit then some (c.toNat - 48)
  else if 97 ≤ c.toNat && c.toNat ≤ 102 then some (c.toNat - 87)
  else if 65 ≤ c.toNat && c.toNat ≤ 70 then some (c.toNat - 55)
  else none

/-- The value of digits in a base, most significant first (00_scope.md R9); none at a character that is no digit. -/
def digitsValue (base : Nat) : List Char → Nat → Option Nat
  | [], value => some value
  | c :: cs, value =>
    match hexDigit c with
    | some d => if d < base then digitsValue base cs (base * value + d) else none
    | none => none

/-- A word as an operand: a hexadecimal literal, a decimal literal, or a name (R50). -/
def scalarOfWord : List Char → Option Scalar
  | '0' :: 'x' :: d :: ds => (digitsValue 16 (d :: ds) 0).map (.hex (ds.length + 1))
  | [] => none
  | c :: cs => if c.isDigit then (digitsValue 10 (c :: cs) 0).map (.dec false) else some (.name (c :: cs))

/-- One scalar operand at the head of the tokens; a minus stands only before a decimal literal (R50). -/
def parseScalar : List Token → Option (Scalar × List Token)
  | .minus :: .word cs :: rest =>
    match scalarOfWord cs with
    | some (.dec false value) => some (.dec true value, rest)
    | _ => none
  | .word cs :: rest => (scalarOfWord cs).map fun x => (x, rest)
  | _ => none

/-- The scalars of a braced sequence up to its closing brace. -/
def parseBytes : Nat → List Token → Option (List Scalar × List Token)
  | 0, _ => none
  | fuel + 1, ts =>
    match parseScalar ts with
    | some (x, .rbrace :: rest) => some ([x], rest)
    | some (x, .comma :: rest) => (parseBytes fuel rest).map fun (xs, left) => (x :: xs, left)
    | _ => none

/-- One operand of a call. -/
def parseArg (fuel : Nat) : List Token → Option (Arg × List Token)
  | .lbrace :: rest => (parseBytes fuel rest).map fun (xs, left) => (.bytes xs, left)
  | ts => (parseScalar ts).map fun (x, left) => (.scalar x, left)

/-- The operands of a call up to its closing parenthesis, which ends the line. -/
def parseArgs : Nat → List Token → Option (List Arg)
  | 0, _ => none
  | fuel + 1, ts =>
    match parseArg fuel ts with
    | some (x, [.rparen]) => some [x]
    | some (x, .comma :: rest) => (parseArgs fuel rest).map (x :: ·)
    | _ => none

/-- A name begins with no digit. -/
def isName (cs : List Char) : Bool :=
  match cs with
  | [] => false
  | c :: _ => !c.isDigit

/-- One line of R50. -/
def parseCall (ts : List Token) : Option Call :=
  match ts with
  | .word target :: .equals :: .word mnemonic :: .lparen :: rest =>
    if isName target then (parseArgs ts.length rest).map (Call.mk (some target) mnemonic) else none
  | .word mnemonic :: .lparen :: rest => (parseArgs ts.length rest).map (Call.mk none mnemonic)
  | _ => none

/-- The operation a mnemonic names: the ten of R39 by select code, and the second spellings of R51. -/
def operationNamed (mnemonic : Name) : Option Nat :=
  if mnemonic = "buildWord".toList ∨ mnemonic = "buildLong".toList then some 0
  else if mnemonic = "getByte".toList then some 1
  else if mnemonic = "getBits".toList then some 2
  else if mnemonic = "setBits".toList then some 3
  else if mnemonic = "clearBits".toList then some 4
  else if mnemonic = "copyBits".toList then some 5
  else if mnemonic = "setByte".toList then some 6
  else if mnemonic = "sign".toList then some 7
  else if mnemonic = "addWouldOverflow".toList then some 8
  else if mnemonic = "subWouldOverflow".toList ∨ mnemonic = "subOverflow".toList then some 9
  else none

/-- The names bound by earlier lines, the latest first (R50). -/
abbrev Bindings := List (Name × Word)

/-- The Word a name is bound to. -/
def boundTo (env : Bindings) (n : Name) : Except AsmError Word :=
  match env.lookup n with
  | some w => .ok w
  | none => .error .unboundName

/-- A Word operand (R50). -/
def wordOperand (env : Bindings) : Scalar → Except AsmError Word
  | .hex digits value => if digits ≤ 16 then .ok (BitVec.ofNat 64 value) else .error .wordOutOfRange
  | .dec negative value =>
    if !negative && value < 2 ^ 64 then .ok (BitVec.ofNat 64 value) else .error .wordOutOfRange
  | .name n => boundTo env n

/-- A Byte operand (R50); of a name, the low 8 bits (95_test_vectors.md P1, log 13). -/
def byteOperand (env : Bindings) : Scalar → Except AsmError Byte
  | .hex _ value => if value ≤ 255 then .ok (BitVec.ofNat 8 value) else .error .byteOutOfRange
  | .dec negative value =>
    if !negative && value ≤ 255 then .ok (BitVec.ofNat 8 value) else .error .byteOutOfRange
  | .name n => (boundTo env n).map (·.setWidth 8)

/-- An Index operand, a literal that an `n`-bit port represents (R50). -/
def indexOperand (n : Nat) : Scalar → Except AsmError Int
  | .hex _ value => if indexFits n value then .ok value else .error .indexOutOfRange
  | .dec negative value =>
    let i : Int := if negative then -value else value
    if indexFits n i then .ok i else .error .indexOutOfRange
  | .name _ => .error .wrongOperands

/-- The instruction of a call at index width `n`, operands in the source's order (R40, R50). -/
def assembleCall (n : Nat) (env : Bindings) (c : Call) : Except AsmError Instr :=
  match operationNamed c.mnemonic with
  | none => .error .unknownMnemonic
  | some operation =>
    match operation, c.args with
    | 0, [.bytes [x0, x1, x2, x3, x4, x5, x6, x7]] => do
      let b0 ← byteOperand env x0
      let b1 ← byteOperand env x1
      let b2 ← byteOperand env x2
      let b3 ← byteOperand env x3
      let b4 ← byteOperand env x4
      let b5 ← byteOperand env x5
      let b6 ← byteOperand env x6
      let b7 ← byteOperand env x7
      return .buildWord ⟨b0, b1, b2, b3, b4, b5, b6, b7⟩
    | 1, [.scalar source, .scalar byteIndex] =>
      return .getByte (← wordOperand env source) (← indexOperand n byteIndex)
    | 2, [.scalar source, .scalar low, .scalar high] =>
      return .getBits (← wordOperand env source) (← indexOperand n low) (← indexOperand n high)
    | 3, [.scalar source, .scalar low, .scalar high] =>
      return .setBits (← wordOperand env source) (← indexOperand n low) (← indexOperand n high)
    | 4, [.scalar source, .scalar low, .scalar high] =>
      return .clearBits (← wordOperand env source) (← indexOperand n low) (← indexOperand n high)
    | 5, [.scalar source, .scalar dest, .scalar srcLow, .scalar dstLow, .scalar length] =>
      return .copyBits (← wordOperand env source) (← wordOperand env dest) (← indexOperand n srcLow)
        (← indexOperand n dstLow) (← indexOperand n length)
    | 6, [.scalar source, .scalar byteIndex] =>
      return .setByte (← wordOperand env source) (← indexOperand n byteIndex)
    | 7, [.scalar source] => return .sign (← wordOperand env source)
    | 8, [.scalar op1, .scalar op2] =>
      return .addWouldOverflow (← wordOperand env op1) (← wordOperand env op2)
    | 9, [.scalar op1, .scalar op2] =>
      return .subWouldOverflow (← wordOperand env op1) (← wordOperand env op2)
    | _, _ => .error .wrongOperands

/-- The instruction a line of characters stands for (R50). -/
def assembleLine (n : Nat) (env : Bindings) (line : List Char) : Except AsmError Instr :=
  match parseCall (tokens line) with
  | some c => assembleCall n env c
  | none => .error .badForm

/-- The character of a hexadecimal digit. -/
def hexChar (d : Nat) : Char := if d < 10 then Char.ofNat (48 + d) else Char.ofNat (55 + d)

/-- `digits` hexadecimal digits of a value, most significant first (00_scope.md R9). -/
def hexText : Nat → Nat → List Char
  | 0, _ => []
  | digits + 1, value => hexText digits (value / 16) ++ [hexChar (value % 16)]

/-- The ways a result is written (R50): a Word in hexadecimal, a Bit or Bool as `0`/`1` or `false`/`true`. -/
def resultTexts (t : ResultType) (y : Word) : List (List Char) :=
  match t with
  | .word => [['0', 'x'] ++ hexText 16 y.toNat]
  | .bit => if y = 0 then [['0'], "false".toList] else [['1'], "true".toList]
  | .bool => if y = 0 then [['0'], "false".toList] else [['1'], "true".toList]

/-- The packed request written `i2_i1_i0_b_a_op` at IDXW = 32 (R41). -/
def requestText (r : Request 32) : List Char :=
  hexText 8 r.i2.toNat ++ ['_'] ++ hexText 8 r.i1.toNat ++ ['_'] ++ hexText 8 r.i0.toNat ++ ['_'] ++
    hexText 16 r.b.toNat ++ ['_'] ++ hexText 16 r.a.toNat ++ ['_'] ++ hexText 1 r.op.toNat

end Sys2Proof.Machine
end

