-- ==== Sys2Proof/Machine/Requester.lean ====
section
/-! DEFINITION. The requester as the spec describes it (10_state.md R21, 70_reset_and_hazards.md R103): it presents a list
of requests one after the other, or runs a straight-line list of lines that name earlier results (92_eei_decisions.md
D13). All of this is host state, none of it the block's. -/

namespace Sys2Proof.Machine

/-- The `y` values of a list of packed requests (R41) presented in order, one per request (R103). -/
def answers (s : State) : List Nat → List Word
  | [] => []
  | req :: reqs =>
    match step (s.presentNumber req) with
    | .next t => t.y :: answers t reqs
    | .fault f => nomatch f
    | .refused _ => []

/-- A line of a host's list: a request, or the host's own choice between two names on a Bool result (D13, log 14). -/
inductive HostLine where
  | request (call : Call)
  | choose (target cond ifOne ifZero : Name)
deriving DecidableEq, Repr

/-- The names after a result, bound where the line names one (30_encoding.md R50). -/
def bindResult (env : Bindings) (target : Option Name) (w : Word) : Bindings :=
  match target with
  | some n => (n, w) :: env
  | none => env

/-- The `y` values and the bindings of a list of lines run in order from a state of the block (R21, R103). -/
def runLines (s : State) (env : Bindings) : List HostLine → Except AsmError (List Word × Bindings)
  | [] => .ok ([], env)
  | .request call :: rest => do
    let i ← assembleCall s.idxw env call
    match step (s.present (encodeRequest s.idxw i)) with
    | .next t =>
      let (ys, final) ← runLines t (bindResult env call.target t.y) rest
      return (t.y :: ys, final)
    | .fault f => nomatch f
    | .refused _ => return ([], env)
  | .choose target cond ifOne ifZero :: rest => do
    let w ← if (← boundTo env cond) = 1 then boundTo env ifOne else boundTo env ifZero
    runLines s ((target, w) :: env) rest

end Sys2Proof.Machine
end

