-- ==== Sys2Proof/Safety.lean ====
section
/-! DEFINITION. What counts as a safe run of BTK (60_exceptions.md R79, 70_reset_and_hazards.md R103), and what it means
for an operation to complete. -/

namespace Sys2Proof

/-- The step from `s` has a next state: neither fault nor refusal. -/
def Safe (s : Machine.State) : Prop := ∃ t, Machine.step s = .next t

/-- `k` steps from `s` all have a next state. -/
def RunsSafely (k : Nat) (s : Machine.State) : Prop := ∃ t, core.run k s = .next t

/-- Instruction `i` completes at `s`: it has a next state, which differs from `s` in `y` alone (60_exceptions.md R89), and
the new `y` satisfies `p`. -/
def CompletesWith (i : Instr) (s : Machine.State) (p : Word → Prop) : Prop :=
  ∃ v, Machine.exec i s = .next { s with y := v } ∧ p v

end Sys2Proof
end

