-- ==== Sys2Proof/Certificates/Slice0/Obligations.lean ====
section
/-! DEFINITION. The statements about BTK for the provers. Index variables range over all integers, Words over all 64-bit
vectors, and states over all states, reached or not. -/

open Sys2Proof Sys2Proof.Machine

/-- Decoding the canonical request of a well-formed instruction gives it back, from the port values and from the packed
number, at every admitted index width (30_encoding.md sections 2 and 3). -/
def Obligations.DecodeOfEncodeIsIdentity : Prop :=
  ∀ n, Config.AdmittedWidth n → ∀ i : Instr, i.wellFormed n = true →
    decodeRequest (encodeRequest n i) = i ∧ decodeNumber n (encode n i).toNat = .ok i

/-- R43: requests that agree on the used fields are one operation with one result; the encoder writes unused fields as
zero, and doing so changes nothing. -/
def Obligations.UnusedFieldsIgnoredAndWrittenZero : Prop :=
  ∀ (n : Nat) (r q : Request n),
    (r.agreesOnUsed q → decodeRequest r = decodeRequest q ∧ blockFunction r = blockFunction q) ∧
    encodeRequest n (decodeRequest r) = r.canonical ∧ r.agreesOnUsed r.canonical

/-- R19: two requests that agree on the select code and on the ports it uses get the same `y`, F of either, from any two
blocks that carry them, whatever the other ports carry; and so it is at every instant, step or no step. -/
def Obligations.UnusedPortsDoNotInfluenceTheResult : Prop :=
  ∀ (n : Nat) (s s' : State) (r q : Request n), s.carries r → s'.carries q → r.agreesOnUsed q →
    (∃ t t', step s = .next t ∧ step s' = .next t' ∧ t.y = blockFunction r ∧ t'.y = blockFunction r) ∧
    (s.settled → s'.settled → s.y = s'.y)

/-- A port that the operation does not use may be left undriven without effect: a state that drives the used ports of a
request with its values shows F of that request, after a step and, being settled, before it
(70_reset_and_hazards.md section 1; that undriven is a port's state is log 2, the model's form of it). -/
def Obligations.UndrivenUnusedPortsHaveNoEffect : Prop :=
  ∀ (s : State) (r : Request s.idxw), s.drivesUsed r →
    (∃ t, step s = .next t ∧ t.y = blockFunction r ∧ s.sameInputs t) ∧ (s.settled → s.y = blockFunction r)

/-- The packed request (30_encoding.md section 3): the fields stand at the weights of the table, and packing loses
nothing. -/
def Obligations.PackedRequestLayout : Prop :=
  ∀ (n : Nat) (r : Request n) (v : BitVec (requestWidth n)),
    (packRequest r).toNat = r.op.toNat + 2 ^ 4 * r.a.toNat + 2 ^ 68 * r.b.toNat + 2 ^ 132 * r.i0.toNat +
      2 ^ (132 + n) * r.i1.toNat + 2 ^ (132 + 2 * n) * r.i2.toNat ∧
    unpackRequest n (packRequest r) = r ∧ packRequest (unpackRequest n v) = v

/-- Every select code is recognised by exactly one row of the opcode table, and decoding a request gives the instruction
of that row (30_encoding.md sections 2 and 5). -/
def Obligations.EveryCodeHasExactlyOneRow : Prop :=
  ∀ (n : Nat) (r : Request n),
    (opcodeTable.filter fun row => row.recognises r.op).map OpcodeRow.mnemonic = [(decodeRequest r).mnemonic]

/-- Words written out from the spec's encodings decode to the instructions they stand for (95_test_vectors.md, BW1, GY4,
CP5, SG7, SU3, RV2). -/
def Obligations.SpecWordsDecode : Prop :=
  decodeTableWord 232 0x00000000_00000000_00000000_0000000000000000_1122334455667788_0 =
      some (.buildWord ⟨0x88, 0x77, 0x66, 0x55, 0x44, 0x33, 0x22, 0x11⟩) ∧
    decodeTableWord 232 0x00000000_00000000_00000003_0000000000000000_1122334455667788_1 =
      some (.getByte 0x1122334455667788 3) ∧
    decodeTableWord 232 0x00000008_0000000C_00000004_AAAAAAAAAAAAAAAA_1122334455667788_5 =
      some (.copyBits 0x1122334455667788 0xAAAAAAAAAAAAAAAA 4 12 8) ∧
    decodeTableWord 232 0x00000000_00000000_00000000_0000000000000000_EFFFFFFFFFFFFFFF_7 =
      some (.sign 0xEFFFFFFFFFFFFFFF) ∧
    decodeTableWord 232 0x00000000_00000000_00000000_8000000000000000_0000000000000001_9 =
      some (.subWouldOverflow 1 0x8000000000000000) ∧
    decodeTableWord 232 0xFFFFFFFF_FFFFFFFF_FFFFFFFF_FFFFFFFFFFFFFFFF_FFFFFFFFFFFFFFFF_F =
      some (.reserved11xx 3)

/-- R44: an index port is read as a two's-complement integer, unscaled; its values are exactly the interval, and each is
presented by some port value. -/
def Obligations.IndexPortsAreTwosComplement : Prop :=
  ∀ n, Config.AdmittedWidth n →
    (∀ v : BitVec n, idx v = (v.toNat : Int) - 2 ^ n * (if v.getLsbD (n - 1) then 1 else 0) ∧
      -(2 ^ (n - 1) : Int) ≤ idx v ∧ idx v ≤ 2 ^ (n - 1) - 1) ∧
    (∀ i : Int, -(2 ^ (n - 1) : Int) ≤ i → i ≤ 2 ^ (n - 1) - 1 → ∃ v : BitVec n, idx v = i)

/-- Index sums of copyBits do not wrap (30_encoding.md section 3): IDXW + 2 bits hold them, and at every admitted width
the request with srcLow = 63 and the largest length is invalid, so that `dest` is returned. -/
def Obligations.IndexSumsDoNotWrap : Prop :=
  ∀ n, Config.AdmittedWidth n →
    (∀ v w : BitVec n,
      (v.signExtend (n + 2) + w.signExtend (n + 2) - 1#(n + 2)).toInt = idx v + idx w - 1) ∧
    (∀ (source dest : Word) (dstLow : Int) (s : State),
      (63 : Int) + (2 ^ (n - 1) - 1) - 1 = 61 + 2 ^ (n - 1) ∧
      CompletesWith (.copyBits source dest 63 dstLow (2 ^ (n - 1) - 1)) s fun y => y = dest)

/-- A step runs the decoded instruction: where the requester drives every port, the step is exec of the instruction those
ports decode to, at that same state, and nothing is added around it; the instruction is always well-formed at the ports'
width (10_state.md section 2, 30_encoding.md section 2). So it is after withFetchWord, which presents the packed request
of 30_encoding.md section 3 whose low `nbits` bits are those of the word and whose other bits are zero: that the next step
answers such a presentation is the model's own choice, log 6, and so is the form of the word, log 8. -/
def Obligations.StepRunsTheDecodedRequest : Prop :=
  (∀ (n : Nat) (s : State) (r : Request n) (i : Instr), s.carries r → decodeRequest r = i →
    step s = exec i s ∧ i.wellFormed n = true) ∧
  (∀ (s : State) (nbits w : Nat) (i : Instr), decodeNumber s.idxw (w % 2 ^ nbits) = .ok i →
    step (s.withFetchWord nbits w) = exec i (s.withFetchWord nbits w)) ∧
  (∀ (s : State) (nbits w : Nat) (i : Instr), s.idxw = Config.idxw → decodeTableWord nbits w = some i →
    step (s.withFetchWord nbits w) = exec i (s.withFetchWord nbits w))

/-- R79: every run of any length from any state goes on; no step faults, is refused or is stuck, and there is no cause of
a fault. -/
def Obligations.NoStepEverStops : Prop :=
  IsEmpty Fault ∧ ∀ s : State, Safe s ∧ ∀ k, RunsSafely k s

/-- A step of a driven block drives `y` with F of its ports, F being the table of 30_encoding.md taken row by row, and
changes nothing else; and from every state, driven or not, exec of the decoded request leaves what the output settling by
itself leaves (10_state.md section 2; the counter that numbers the samples of undriven ports is log 3). -/
def Obligations.StepDrivesTheBlockFunction : Prop :=
  (∀ (n : Nat) (s : State) (r : Request n), s.carries r → step s = .next { s with y := blockFunction r }) ∧
  ∀ s : State, step s = .next s.settle

/-- The invariant of a combinational block, kept by every step from every state, at every index width: the output is F of
the ports. A step from a state with every port driven and the output settled is that state again, and no step changes the
index width or a port that the requester drives (10_state.md section 2). -/
def Obligations.EveryStepKeepsTheOutputSettled : Prop :=
  ∀ s t : State, s.settled → step s = .next t →
    t.settled ∧ s.sameInputs t ∧ (s.allDriven = true → t = s)

/-- After power-up, at every index width, no port is driven and `y` is F of whatever the ports then carry, which no
statement names (10_state.md section 5; that undriven is a port's state after power-up is log 2, the model's reading, and
that State.reset stands at the default width is log 1). -/
def Obligations.PowerUpIsSettled : Prop :=
  State.reset = State.resetAt 32 ∧ ∀ n, (State.resetAt n).idxw = n ∧ (State.resetAt n).settled ∧
    (State.resetAt n).op = .undriven ∧ (State.resetAt n).a = .undriven ∧ (State.resetAt n).b = .undriven ∧
    (State.resetAt n).i0 = .undriven ∧ (State.resetAt n).i1 = .undriven ∧ (State.resetAt n).i2 = .undriven

/-- Nothing must be initialised: the first request after power-up gets the answer it gets in every other state, at once
and after a step (70_reset_and_hazards.md section 2). -/
def Obligations.FirstRequestBehavesAsEveryOther : Prop :=
  ∀ (s : State) (r : Request s.idxw),
    ((State.resetAt s.idxw).present r).y = blockFunction r ∧ (s.present r).y = blockFunction r ∧
    ∃ t t', step ((State.resetAt s.idxw).present r) = .next t ∧ step (s.present r) = .next t' ∧
      t.y = blockFunction r ∧ t'.y = blockFunction r

/-- With ports undriven, a step still goes on, and `y` is F of some request that the ports may be carrying: the driven
ports at their values, each undriven one at some value that no statement names; so it is before the step too, in a settled
state (70_reset_and_hazards.md section 1; the form of the free values is log 2 and log 12). -/
def Obligations.UndrivenPortsShowSomeRequest : Prop :=
  ∀ s : State,
    (∃ (r : Request s.idxw) (t : State), s.mayCarry r ∧ step s = .next t ∧ t.y = blockFunction r ∧ s.sameInputs t) ∧
    (s.settled → ∃ r : Request s.idxw, s.mayCarry r ∧ s.y = blockFunction r)

/-- Presenting the same request again yields the same `y`: a step on a presented request changes nothing, `y` being F of
it already, and presenting it again changes nothing either (20_memory.md section 4). -/
def Obligations.RequestsAreIdempotent : Prop :=
  ∀ (s : State) (r : Request s.idxw),
    (s.present r).y = blockFunction r ∧ step (s.present r) = .next (s.present r) ∧
      (s.present r).present r = s.present r

/-- R35: the answers to a list of requests are F of each request, whatever state the list starts in and whatever was
presented before; so requests commute, between any two positions and between two blocks of one index width. The requests
of the list are packed ones (30_encoding.md section 3; log 8). -/
def Obligations.AnswersDependOnTheirOwnRequestOnly : Prop :=
  (∀ (s : State) (reqs : List Nat),
    answers s reqs = reqs.map fun req => blockFunction (unpackRequest s.idxw (BitVec.ofNat _ req))) ∧
  (∀ (s s' : State) (before after : List Nat) (r q : Nat), s.idxw = s'.idxw →
    answers s (before ++ r :: q :: after) =
      answers s before ++ (answers s' [r] ++ answers s' [q]) ++ answers s' after ∧
    (answers s [q, r]) = (answers s' [r, q]).reverse)

/-- Models with different index widths agree wherever both represent the operands (00_scope.md section 3; the spec's own
derivation, "[derived: from 30_encoding.md rule R44]"). -/
def Obligations.IndexWidthsAgree : Prop :=
  ∀ (n m : Nat) (r : Request n) (q : Request m),
    Config.AdmittedWidth n → Config.AdmittedWidth m → r.op = q.op → r.a = q.a → r.b = q.b →
    idx r.i0 = idx q.i0 → idx r.i1 = idx q.i1 → idx r.i2 = idx q.i2 →
    blockFunction r = blockFunction q ∧ decodeRequest r = decodeRequest q

/-- R53: getBits returns bits low..high right-justified and zero-filled on a valid pair, 0 on every other, and changes
`y` alone. -/
def Obligations.GetBitsResult : Prop :=
  (∀ (n : Nat) (r : Request n), r.op = 2#4 → decodeRequest r = .getBits r.a (idx r.i0) (idx r.i1)) ∧
  ∀ (source : Word) (low high : Int) (s : State),
    CompletesWith (.getBits source low high) s fun y =>
      (0 ≤ low ∧ low ≤ high ∧ high ≤ 63 → ∀ k : Nat, k < 64 →
        y.getLsbD k = (decide ((k : Int) ≤ high - low) && source.getLsbD (low.toNat + k))) ∧
      (¬(0 ≤ low ∧ low ≤ high ∧ high ≤ 63) → y = 0)

/-- The barrel-shifter form of getBits is getBits (40_bitfield.md section 2, "This equals `zext_64(source[high:low])`",
the spec's own derivation). -/
def Obligations.GetBitsShifterFormIsGetBits : Prop :=
  ∀ (source : Word) (low high : Int), getBitsDatapath source low high = getBits source low high

/-- R56: setBits forces bits low..high to 1 on a valid pair and returns `source` on every other, and changes `y`
alone. -/
def Obligations.SetBitsResult : Prop :=
  (∀ (n : Nat) (r : Request n), r.op = 3#4 → decodeRequest r = .setBits r.a (idx r.i0) (idx r.i1)) ∧
  ∀ (source : Word) (low high : Int) (s : State),
    CompletesWith (.setBits source low high) s fun y =>
      (0 ≤ low ∧ low ≤ high ∧ high ≤ 63 → ∀ k : Nat, k < 64 →
        y.getLsbD k = if low ≤ k ∧ (k : Int) ≤ high then true else source.getLsbD k) ∧
      (¬(0 ≤ low ∧ low ≤ high ∧ high ≤ 63) → y = source)

/-- R57: clearBits forces bits low..high to 0 on a valid pair and returns `source` on every other, and changes `y`
alone. -/
def Obligations.ClearBitsResult : Prop :=
  (∀ (n : Nat) (r : Request n), r.op = 4#4 → decodeRequest r = .clearBits r.a (idx r.i0) (idx r.i1)) ∧
  ∀ (source : Word) (low high : Int) (s : State),
    CompletesWith (.clearBits source low high) s fun y =>
      (0 ≤ low ∧ low ≤ high ∧ high ≤ 63 → ∀ k : Nat, k < 64 →
        y.getLsbD k = if low ≤ k ∧ (k : Int) ≤ high then false else source.getLsbD k) ∧
      (¬(0 ≤ low ∧ low ≤ high ∧ high ≤ 63) → y = source)

/-- R58: on the whole-word range setBits returns all ones and clearBits returns zero, and that range is 0..63 and no
other. -/
def Obligations.WholeWordSetAndClear : Prop :=
  ∀ (source : Word) (low high : Int) (s : State), 0 ≤ low ∧ low ≤ high ∧ high ≤ 63 → high - low + 1 = 64 →
    low = 0 ∧ high = 63 ∧
    (CompletesWith (.setBits source low high) s fun y => y = 0xFFFFFFFFFFFFFFFF) ∧
    (CompletesWith (.clearBits source low high) s fun y => y = 0x0000000000000000)

/-- The mask that a shifter computes, with the whole word as a case of its own, is the field mask
(70_reset_and_hazards.md section 3). -/
def Obligations.MaskByShifterIsFieldMask : Prop :=
  ∀ (low high : Int) (h : validRange low high), fieldMaskDatapath low high h = fieldMask low high h

/-- R60: on a valid copy of at least one bit copyBits replaces bits dstLow..dstLow+length-1 of `dest` by the source
field and leaves the others; on every invalid copy it returns `dest`; it changes `y` alone. The result is also the
composition the rule gives. -/
def Obligations.CopyBitsResult : Prop :=
  (∀ (n : Nat) (r : Request n), r.op = 5#4 →
    decodeRequest r = .copyBits r.a r.b (idx r.i0) (idx r.i1) (idx r.i2)) ∧
  ∀ (source dest : Word) (srcLow dstLow length : Int) (s : State),
    CompletesWith (.copyBits source dest srcLow dstLow length) s fun y =>
      (validCopy srcLow dstLow length →
        (1 ≤ length → ∀ k : Nat, k < 64 →
          y.getLsbD k =
            if dstLow ≤ k ∧ (k : Int) ≤ dstLow + length - 1 then source.getLsbD ((k : Int) - dstLow + srcLow).toNat
            else dest.getLsbD k) ∧
        y = clearBits dest dstLow (dstLow + length - 1) |||
          getBits source srcLow (srcLow + length - 1) <<< dstLow.toNat) ∧
      (¬validCopy srcLow dstLow length → y = dest)

/-- copyBits with length <= 0 returns `dest`, for every srcLow and dstLow (40_bitfield.md section 6, the spec's own
derivation from the composition). -/
def Obligations.CopyOfNothingReturnsDest : Prop :=
  ∀ (source dest : Word) (srcLow dstLow length : Int) (s : State), length ≤ 0 →
    CompletesWith (.copyBits source dest srcLow dstLow length) s fun y => y = dest

/-- The validity tests in their other forms: the three violations of a range, the copy test that adds no two operands,
and the byte test passed to the range test (40_bitfield.md sections 1 and 6, 41_bytelane.md section 1; the spec's own
derivations). -/
def Obligations.ValidityTestForms : Prop :=
  (∀ low high : Int, ¬validRange low high ↔ low < 0 ∨ high > 63 ∨ high < low) ∧
  (∀ srcLow dstLow length : Int, validCopy srcLow dstLow length ↔ validCopyNoSum srcLow dstLow length) ∧
  (∀ i : Int, validByte i ↔ validRange (8 * i) (8 * i + 7))

/-- Setting and clearing a range: each is idempotent, and clearing after setting is clearing, on valid and invalid ranges
alike (40_bitfield.md section 7). -/
def Obligations.SetAndClearLaws : Prop :=
  ∀ (w : Word) (low high : Int),
    setBits (setBits w low high) low high = setBits w low high ∧
    clearBits (clearBits w low high) low high = clearBits w low high ∧
    clearBits (setBits w low high) low high = clearBits w low high

/-- What reading a range gives: a value below 2^(high-low+1); all ones after setting it; zero after clearing it
(40_bitfield.md section 7, the last row being the spec's own derivation). -/
def Obligations.ReadBackLaws : Prop :=
  ∀ (w : Word) (low high : Int), validRange low high →
    (getBits w low high).toNat < 2 ^ (high - low + 1).toNat ∧
    (getBits (setBits w low high) low high).toNat = 2 ^ (high - low + 1).toNat - 1 ∧
    getBits (clearBits w low high) low high = 0

/-- A full copy is the source, and a copied field reads back as the source field (40_bitfield.md section 7, the second
being the spec's own derivation). -/
def Obligations.CopyReadBackLaws : Prop :=
  (∀ source dest : Word, copyBits source dest 0 0 64 = source) ∧
  (∀ (source dest : Word) (srcLow dstLow length : Int), validCopy srcLow dstLow length → 1 ≤ length →
    getBits (copyBits source dest srcLow dstLow length) dstLow (dstLow + length - 1) =
      getBits source srcLow (srcLow + length - 1))

/-- R65: buildWord places bytes[k] in lane k, so that the Word's value is the sum of bytes[k] * 2^(8k); with the carriage
on port `a` its result is `a`; it changes `y` alone. -/
def Obligations.BuildWordResult : Prop :=
  (∀ (n : Nat) (r : Request n), r.op = 0#4 → ∃ bytes : ByteSeq, decodeRequest r = .buildWord bytes ∧
    (∀ k : Fin 8, bytes.at k = lane r.a k) ∧ buildWord bytes = r.a) ∧
  ∀ (bytes : ByteSeq) (s : State),
    CompletesWith (.buildWord bytes) s fun y =>
      (∀ (k : Fin 8) (j : Nat), j < 8 → y.getLsbD (8 * k.val + j) = (bytes.at k).getLsbD j) ∧
      y.toNat = (bytes.at 0).toNat + 2 ^ 8 * (bytes.at 1).toNat + 2 ^ 16 * (bytes.at 2).toNat +
        2 ^ 24 * (bytes.at 3).toNat + 2 ^ 32 * (bytes.at 4).toNat + 2 ^ 40 * (bytes.at 5).toNat +
        2 ^ 48 * (bytes.at 6).toNat + 2 ^ 56 * (bytes.at 7).toNat

/-- R66: getByte returns lane byteIndex right-justified and zero-extended on an index in [0, 7], 0 on every other, and
changes `y` alone. -/
def Obligations.GetByteResult : Prop :=
  (∀ (n : Nat) (r : Request n), r.op = 1#4 → decodeRequest r = .getByte r.a (idx r.i0)) ∧
  ∀ (source : Word) (byteIndex : Int) (s : State),
    CompletesWith (.getByte source byteIndex) s fun y =>
      (0 ≤ byteIndex ∧ byteIndex ≤ 7 → ∀ k : Nat, k < 64 →
        y.getLsbD k = (decide (k < 8) && source.getLsbD (8 * byteIndex.toNat + k))) ∧
      (¬(0 ≤ byteIndex ∧ byteIndex ≤ 7) → y = 0)

/-- getByte is getBits on the lane's range for every index, valid or not, and so is the lane multiplexer built from the
shifter (41_bytelane.md section 3, the shift amounts being the spec's own derivation). -/
def Obligations.GetByteIsGetBitsOnTheLane : Prop :=
  ∀ (source : Word) (i : Int),
    getByte source i = getBits source (8 * i) (8 * i + 7) ∧ getByteDatapath source i = getByte source i

/-- R68: setByte sets the eight bits of lane byteIndex on an index in [0, 7], returns `source` on every other, and changes
`y` alone; it is setBits on the lane's range for every index. -/
def Obligations.SetByteResult : Prop :=
  (∀ (n : Nat) (r : Request n), r.op = 6#4 → decodeRequest r = .setByte r.a (idx r.i0)) ∧
  ∀ (source : Word) (byteIndex : Int) (s : State),
    CompletesWith (.setByte source byteIndex) s fun y =>
      (0 ≤ byteIndex ∧ byteIndex ≤ 7 → ∀ k : Nat, k < 64 →
        y.getLsbD k = if 8 * byteIndex ≤ k ∧ (k : Int) ≤ 8 * byteIndex + 7 then true else source.getLsbD k) ∧
      (¬(0 ≤ byteIndex ∧ byteIndex ≤ 7) → y = source) ∧
      y = setBits source (8 * byteIndex) (8 * byteIndex + 7)

/-- The laws of the byte-lane family: lanes read back the Bytes they were built from, a Word is built from its lanes, a
set lane reads 0xFF and every other lane as before (41_bytelane.md section 5, all but the first the spec's own
derivation). -/
def Obligations.ByteLaneLaws : Prop :=
  (∀ (bytes : ByteSeq) (k : Fin 8), getByte (buildWord bytes) k.val = (bytes.at k).setWidth 64) ∧
  (∀ (w : Word) (bytes : ByteSeq), (∀ k : Fin 8, bytes.at k = (getByte w k.val).setWidth 8) → buildWord bytes = w) ∧
  (∀ (w : Word) (i j : Fin 8),
    getByte (setByte w i.val) i.val = 0xFF ∧
      (i ≠ j → getByte (setByte w i.val) j.val = getByte w j.val))

/-- R31: lane k of a Word is its bits 8k+7..8k. -/
def Obligations.LaneIsEightBitsOfTheWord : Prop :=
  ∀ (w : Word) (k : Fin 8), (lane w k).toNat = w.toNat / 2 ^ (8 * k.val) % 2 ^ 8 ∧
    ∀ j, j < 8 → (lane w k).getLsbD j = w.getLsbD (8 * k.val + j)

/-- A lane clear and a byte insert by composition act on their one lane (41_bytelane.md section 5, the spec's own
derivation). -/
def Obligations.LaneClearAndByteInsert : Prop :=
  ∀ (w : Word) (v : Byte) (i j : Fin 8),
    lane (clearBits w (8 * (i.val : Int)) (8 * (i.val : Int) + 7)) j = (if j = i then 0 else lane w j) ∧
    lane (copyBits (v.setWidth 64) w 0 (8 * (i.val : Int)) 8) j = (if j = i then v else lane w j)

/-- R71: sign returns bit 63, which is 1 exactly for a negative two's-complement value, and changes `y` alone. -/
def Obligations.SignResult : Prop :=
  (∀ (n : Nat) (r : Request n), r.op = 7#4 → decodeRequest r = .sign r.a) ∧
  ∀ (source : Word) (s : State),
    CompletesWith (.sign source) s fun y =>
      y = (if source.getLsbD 63 then 1 else 0) ∧ (y = 1 ↔ signedValue source < 0)

/-- R72: addWouldOverflow returns 1 exactly when both operands have one sign and the sum modulo 2^64 has the other, and
changes `y` alone. -/
def Obligations.AddOverflowSignRule : Prop :=
  (∀ (n : Nat) (r : Request n), r.op = 8#4 → decodeRequest r = .addWouldOverflow r.a r.b) ∧
  ∀ (op1 op2 : Word) (s : State),
    CompletesWith (.addWouldOverflow op1 op2) s fun y =>
      y = if op1.getLsbD 63 = op2.getLsbD 63 ∧ (op1 + op2).getLsbD 63 ≠ op1.getLsbD 63 then 1 else 0

/-- addWouldOverflow agrees with true arithmetic: 1 exactly when the exact sum of the two's-complement values is not
representable in 64 bits (42_sign_overflow.md section 2, from general knowledge as the spec says). -/
def Obligations.AddOverflowIsTrueOverflow : Prop :=
  ∀ (op1 op2 : Word) (s : State),
    CompletesWith (.addWouldOverflow op1 op2) s fun y =>
      y = if -2 ^ 63 ≤ signedValue op1 + signedValue op2 ∧ signedValue op1 + signedValue op2 ≤ 2 ^ 63 - 1 then 0
        else 1

/-- R73: the three equivalent forms of the addition verdict; the literal NOT form of the source, unrestricted, is not one
of them, as 1 and -1 show. -/
def Obligations.AddOverflowForms : Prop :=
  (∀ op1 op2 : Word,
    let s1 := signBit op1
    let s2 := signBit op2
    let ss := signBit (op1 + op2)
    addOverflows op1 op2 = ((s1 == s2) && (ss != s1)) ∧
    addOverflows op1 op2 = ((!s1 && !s2 && ss) || (s1 && s2 && !ss)) ∧
    addOverflows op1 op2 = ((s1 == s2) && !((!s1 && !s2 && !ss) || (s1 && s2 && ss)))) ∧
  (let s1 := signBit 1
   let s2 := signBit 0xFFFFFFFFFFFFFFFF
   let ss := signBit (1 + 0xFFFFFFFFFFFFFFFF)
   addOverflows 1 0xFFFFFFFFFFFFFFFF = false ∧ (!((!s1 && !s2 && !ss) || (s1 && s2 && ss))) = true)

/-- R75: subWouldOverflow returns 1 exactly in the two sign cases of the rule, on `op2 - op1` modulo 2^64, and changes `y`
alone. -/
def Obligations.SubOverflowSignRule : Prop :=
  (∀ (n : Nat) (r : Request n), r.op = 9#4 → decodeRequest r = .subWouldOverflow r.a r.b) ∧
  ∀ (op1 op2 : Word) (s : State),
    CompletesWith (.subWouldOverflow op1 op2) s fun y =>
      (y = if (op1.getLsbD 63 = false ∧ op2.getLsbD 63 = true ∧ (op2 - op1).getLsbD 63 = false) ∨
          (op1.getLsbD 63 = true ∧ op2.getLsbD 63 = false ∧ (op2 - op1).getLsbD 63 = true) then 1 else 0) ∧
      y = if op1.getLsbD 63 ≠ op2.getLsbD 63 ∧ (op2 - op1).getLsbD 63 ≠ op2.getLsbD 63 then 1 else 0

/-- subWouldOverflow agrees with true arithmetic: 1 exactly when the exact difference of the two's-complement values,
second operand minus first, is not representable in 64 bits (42_sign_overflow.md section 3, from general knowledge as the
spec says). -/
def Obligations.SubOverflowIsTrueOverflow : Prop :=
  ∀ (op1 op2 : Word) (s : State),
    CompletesWith (.subWouldOverflow op1 op2) s fun y =>
      y = if -2 ^ 63 ≤ signedValue op2 - signedValue op1 ∧ signedValue op2 - signedValue op1 ≤ 2 ^ 63 - 1 then 0
        else 1

/-- R76: `a` is the subtrahend and `b` the minuend of subWouldOverflow, so that swapping them changes the verdict on
(MIN, 0), while addWouldOverflow is symmetric. -/
def Obligations.SubtrahendIsTheFirstOperand : Prop :=
  (∀ (n : Nat) (r : Request n), r.op = 9#4 →
    decodeRequest r = .subWouldOverflow r.a r.b ∧ blockFunction r = zextBool (subOverflows r.a r.b)) ∧
  (∀ s : State, CompletesWith (.subWouldOverflow 0x8000000000000000 0) s fun y => y = 1) ∧
  (∀ s : State, CompletesWith (.subWouldOverflow 0 0x8000000000000000) s fun y => y = 0) ∧
  (∀ op1 op2 : Word, addOverflows op1 op2 = addOverflows op2 op1)

/-- The reserved codes 10 to 15 answer 0 whatever the other ports carry, and change `y` alone (30_encoding.md section 5,
"For them `y <- 0`, whatever the other ports carry"; that the model answers and does not refuse is its choice, log 7). -/
def Obligations.ReservedCodesAnswerZero : Prop :=
  (∀ (n : Nat) (r : Request n), r.op = 10#4 ∨ r.op = 11#4 → ∃ x, decodeRequest r = .reserved101x x) ∧
  (∀ (n : Nat) (r : Request n), 12 ≤ r.op.toNat → ∃ xx, decodeRequest r = .reserved11xx xx) ∧
  (∀ (x : BitVec 1) (s : State), CompletesWith (.reserved101x x) s fun y => y = 0) ∧
  (∀ (xx : BitVec 2) (s : State), CompletesWith (.reserved11xx xx) s fun y => y = 0)

/-- The sentinel table, row by row: on an invalid operand each operation returns its own sentinel, zero or its input, and
nothing else is recorded (60_exceptions.md section 1; the row on length <= 0 is the spec's own derivation). -/
def Obligations.SentinelTable : Prop :=
  ∀ (source dest : Word) (i low high srcLow dstLow length : Int) (s : State),
    (low < 0 ∨ high > 63 ∨ high < low →
      (CompletesWith (.getBits source low high) s fun y => y = 0) ∧
      (CompletesWith (.setBits source low high) s fun y => y = source) ∧
      (CompletesWith (.clearBits source low high) s fun y => y = source)) ∧
    (i < 0 ∨ i > 7 →
      (CompletesWith (.getByte source i) s fun y => y = 0) ∧
      (CompletesWith (.setByte source i) s fun y => y = source)) ∧
    (srcLow < 0 ∨ dstLow < 0 ∨ srcLow > 63 ∨ dstLow > 63 ∨ srcLow + length - 1 > 63 ∨ dstLow + length - 1 > 63 ∨
        length ≤ 0 →
      CompletesWith (.copyBits source dest srcLow dstLow length) s fun y => y = dest)

/-- Every operation writes `y` and nothing else, and what it writes depends on its operands alone: two states get the same
result (60_exceptions.md section 6, 00_scope.md section 4). -/
def Obligations.EveryOperationWritesTheResultOnly : Prop :=
  ∀ (i : Instr) (s s' : State), ∃ v,
    exec i s = .next { s with y := v } ∧ exec i s' = .next { s' with y := v }

/-- R46: an operation of result type Word drives `y` with that Word; a Bit or Bool operation drives `y[0]` with its verdict
and every other bit with 0, so that true is 1 and false is 0. -/
def Obligations.ResultsAreEncodedOnY : Prop :=
  (∀ (i : Instr) (s : State), i.resultType ≠ .word →
    CompletesWith i s fun y => (∀ k, 1 ≤ k → k < 64 → y.getLsbD k = false) ∧ (y = 0 ∨ y = 1)) ∧
  (∀ (source op1 op2 : Word) (s : State),
    (CompletesWith (.sign source) s fun y => y.getLsbD 0 = signBit source) ∧
    (CompletesWith (.addWouldOverflow op1 op2) s fun y => y.getLsbD 0 = addOverflows op1 op2) ∧
    (CompletesWith (.subWouldOverflow op1 op2) s fun y => y.getLsbD 0 = subOverflows op1 op2)) ∧
  (∀ (bytes : ByteSeq) (source dest : Word) (i j k : Int) (s : State),
    (CompletesWith (.buildWord bytes) s fun y => y = buildWord bytes) ∧
    (CompletesWith (.getByte source i) s fun y => y = getByte source i) ∧
    (CompletesWith (.getBits source i j) s fun y => y = getBits source i j) ∧
    (CompletesWith (.setBits source i j) s fun y => y = setBits source i j) ∧
    (CompletesWith (.clearBits source i j) s fun y => y = clearBits source i j) ∧
    (CompletesWith (.copyBits source dest i j k) s fun y => y = copyBits source dest i j k) ∧
    (CompletesWith (.setByte source i) s fun y => y = setByte source i))

/-- R12: the two shifts multiply and divide by 2^n, dropping what leaves the Word and filling with zeros, for every amount
for which they are defined. -/
def Obligations.ShiftsMultiplyAndDivide : Prop :=
  ∀ (w : Word) (n : Fin 64),
    (shl w n).toNat = w.toNat * 2 ^ n.val % 2 ^ 64 ∧ (lshr w n).toNat = w.toNat / 2 ^ n.val

/-- What the assembler accepts is well-formed at its width, and its request decodes to it again: no literal outside the
port's interval passes (30_encoding.md section 6). -/
def Obligations.AssemblerOutputIsWellFormed : Prop :=
  ∀ (n : Nat) (env : Bindings) (c : Call) (i : Instr), Config.AdmittedWidth n → assembleCall n env c = .ok i →
    i.wellFormed n = true ∧ decodeRequest (encodeRequest n i) = i

/-- The second spellings buildLong and subOverflow assemble as the operations they name (30_encoding.md section 6). -/
def Obligations.SecondSpellingsAssembleAlike : Prop :=
  ∀ (n : Nat) (env : Bindings) (target : Option Name) (args : List Arg),
    assembleCall n env ⟨target, "buildLong".toList, args⟩ = assembleCall n env ⟨target, "buildWord".toList, args⟩ ∧
    assembleCall n env ⟨target, "subOverflow".toList, args⟩ =
      assembleCall n env ⟨target, "subWouldOverflow".toList, args⟩

/-- The results of a host's list of lines do not depend on the state of the block it starts in, but for its index width,
and there is one `y` per request line (10_state.md section 3, 70_reset_and_hazards.md section 5). -/
def Obligations.HostLinesDoNotDependOnTheBlock : Prop :=
  ∀ (s s' : State) (env : Bindings) (lines : List HostLine),
    (s.idxw = s'.idxw → runLines s env lines = runLines s' env lines) ∧
    ∀ ys final, runLines s env lines = .ok (ys, final) →
      ys.length = (lines.filter fun | .request _ => true | .choose _ _ _ _ => false).length

/-- The output follows its inputs: every operation of the requester, from every state, leaves `y` F of the inputs as they
then stand, drives the port it names and leaves the index width and every other port as they were
(70_reset_and_hazards.md section 3). -/
def Obligations.RequesterOperationsKeepTheOutputSettled : Prop :=
  ∀ s : State, (∀ d : Drive s.idxw, (s.drive d).settled) ∧
    (∀ v, State.sameInputs { s with op := .driven v } (s.driveOp v)) ∧
    (∀ v, State.sameInputs { s with a := .driven v } (s.driveA v)) ∧
    (∀ v, State.sameInputs { s with b := .driven v } (s.driveB v)) ∧
    (∀ v, State.sameInputs { s with i0 := .driven v } (s.driveI0 v)) ∧
    (∀ v, State.sameInputs { s with i1 := .driven v } (s.driveI1 v)) ∧
    (∀ v, State.sameInputs { s with i2 := .driven v } (s.driveI2 v)) ∧
    (∀ r, (s.present r).carries r ∧ (s.present r).idxw = s.idxw)

/-- R18: at every instant of a block of any index width, after power-up, after any operations of the requester and after
any steps, `y` is F of the input ports, and the width is the one it was built with; so two instances that carry the same
request show the same `y`, whatever came before. -/
def Obligations.OutputIsAFunctionOfTheInputsAtEveryInstant : Prop :=
  ∀ (n : Nat) (s : State), Reachable n s →
    s.idxw = n ∧ s.settled ∧ (∀ r : Request n, s.carries r → s.y = blockFunction r) ∧
    ∀ (s' : State) (r : Request n), Reachable n s' → s.carries r → s'.carries r → s.y = s'.y

/-- Driving the six ports one after the other presents the request as presenting it at once does: the ports carry it and
`y` is F of it, before any step (10_state.md section 2, 70_reset_and_hazards.md section 3). -/
def Obligations.PortByPortIsTheSameRequest : Prop :=
  ∀ (s : State) (r : Request s.idxw),
    let t := (((((s.driveI2 r.i2).driveOp r.op).driveB r.b).driveI0 r.i0).driveA r.a).driveI1 r.i1
    t.carries r ∧ t.y = blockFunction r ∧ (s.present r).carries r ∧ (s.present r).y = t.y

/-- Two stepped machines of different index widths agree wherever both represent the operands: on requests with the same
select code, Words and decoded indices they step to the same `y`, and show it before the step if they are settled
(00_scope.md section 3; the spec's own derivation, "[derived: from 30_encoding.md rule R44]"). -/
def Obligations.MachinesOfDifferentWidthsAgree : Prop :=
  ∀ (n m : Nat) (s s' : State) (r : Request n) (q : Request m),
    Config.AdmittedWidth n → Config.AdmittedWidth m → s.carries r → s'.carries q →
    r.op = q.op → r.a = q.a → r.b = q.b → idx r.i0 = idx q.i0 → idx r.i1 = idx q.i1 → idx r.i2 = idx q.i2 →
    (∃ t t', step s = .next t ∧ step s' = .next t' ∧ t.y = t'.y ∧ t.idxw = n ∧ t'.idxw = m) ∧
    (s.settled → s'.settled → s.y = s'.y)
end

