-- ==== Sys2Proof/Laws/Decode.lean ====
section
/-! SUPPORT. What the index ports and the byte carriage do, said once each. -/

namespace Sys2Proof

/-- `indexFits` as the interval of R44. -/
theorem indexFits_iff (n : Nat) (i : Int) :
    indexFits n i = true ↔ -(2 ^ (n - 1) : Int) ≤ i ∧ i ≤ 2 ^ (n - 1) - 1 := by
  simp [indexFits]

/-- A port of at least one bit carries every Index of its interval (R44). -/
theorem idx_indexPort (n : Nat) (hn : 0 < n) (i : Int) (h : indexFits n i = true) : idx (indexPort n i) = i := by
  rw [indexFits_iff] at h
  obtain ⟨m, rfl⟩ : ∃ m, n = m + 1 := ⟨n - 1, by omega⟩
  simp only [Nat.add_sub_cancel] at h
  have h2 : ((2 ^ (m + 1) : Nat) : Int) = 2 * 2 ^ m := by push_cast; ring
  simp only [idx, indexPort, BitVec.toInt_ofInt]
  rw [Int.bmod_eq_of_le]
  · rw [h2]; omega
  · rw [h2]; omega

/-- A port value is the one that carries its own Index (R44). -/
@[simp] theorem indexPort_idx {n : Nat} (v : BitVec n) : indexPort n (idx v) = v := by
  simp [indexPort, idx]

/-- Bit j of lane k is bit 8k+j of the Word (20_memory.md R30, R31). -/
theorem getLsbD_lane (w : Word) (k : Fin 8) (j : Nat) :
    (lane w k).getLsbD j = (decide (j < 8) && w.getLsbD (8 * k.val + j)) := by
  simp [lane, BitVec.getLsbD_extractLsb']

end Sys2Proof
end

