-- ==== Sys2Proof/Laws/State.lean ====
section
/-! SUPPORT. One lemma per field per update of State, so that no later proof unfolds a record update. -/

namespace Sys2Proof.Machine

@[simp] theorem State.driveY_idxw (s : State) (v : Word) : (s.driveY v).idxw = s.idxw := rfl
@[simp] theorem State.driveY_op (s : State) (v : Word) : (s.driveY v).op = s.op := rfl
@[simp] theorem State.driveY_a (s : State) (v : Word) : (s.driveY v).a = s.a := rfl
@[simp] theorem State.driveY_b (s : State) (v : Word) : (s.driveY v).b = s.b := rfl
@[simp] theorem State.driveY_i0 (s : State) (v : Word) : (s.driveY v).i0 = s.i0 := rfl
@[simp] theorem State.driveY_i1 (s : State) (v : Word) : (s.driveY v).i1 = s.i1 := rfl
@[simp] theorem State.driveY_i2 (s : State) (v : Word) : (s.driveY v).i2 = s.i2 := rfl
@[simp] theorem State.driveY_y (s : State) (v : Word) : (s.driveY v).y = v := rfl
@[simp] theorem State.driveY_samples (s : State) (v : Word) : (s.driveY v).samples = s.samples := rfl

@[simp] theorem State.sampled_idxw (s : State) : s.sampled.idxw = s.idxw := rfl
@[simp] theorem State.sampled_op (s : State) : s.sampled.op = s.op := rfl
@[simp] theorem State.sampled_a (s : State) : s.sampled.a = s.a := rfl
@[simp] theorem State.sampled_b (s : State) : s.sampled.b = s.b := rfl
@[simp] theorem State.sampled_i0 (s : State) : s.sampled.i0 = s.i0 := rfl
@[simp] theorem State.sampled_i1 (s : State) : s.sampled.i1 = s.i1 := rfl
@[simp] theorem State.sampled_i2 (s : State) : s.sampled.i2 = s.i2 := rfl
@[simp] theorem State.sampled_y (s : State) : s.sampled.y = s.y := rfl
@[simp] theorem State.sampled_samples (s : State) :
    s.sampled.samples = if s.allDriven then s.samples else s.samples + 1 := rfl

@[simp] theorem State.settle_idxw (s : State) : s.settle.idxw = s.idxw := rfl
@[simp] theorem State.settle_op (s : State) : s.settle.op = s.op := rfl
@[simp] theorem State.settle_a (s : State) : s.settle.a = s.a := rfl
@[simp] theorem State.settle_b (s : State) : s.settle.b = s.b := rfl
@[simp] theorem State.settle_i0 (s : State) : s.settle.i0 = s.i0 := rfl
@[simp] theorem State.settle_i1 (s : State) : s.settle.i1 = s.i1 := rfl
@[simp] theorem State.settle_i2 (s : State) : s.settle.i2 = s.i2 := rfl
@[simp] theorem State.settle_y (s : State) : s.settle.y = blockFunction s.sampled.request := rfl
@[simp] theorem State.settle_samples (s : State) : s.settle.samples = s.sampled.samples := rfl

@[simp] theorem State.driveOp_idxw (s : State) (v : BitVec 4) : (s.driveOp v).idxw = s.idxw := rfl
@[simp] theorem State.driveOp_op (s : State) (v : BitVec 4) : (s.driveOp v).op = .driven v := rfl
@[simp] theorem State.driveOp_a (s : State) (v : BitVec 4) : (s.driveOp v).a = s.a := rfl
@[simp] theorem State.driveOp_b (s : State) (v : BitVec 4) : (s.driveOp v).b = s.b := rfl
@[simp] theorem State.driveOp_i0 (s : State) (v : BitVec 4) : (s.driveOp v).i0 = s.i0 := rfl
@[simp] theorem State.driveOp_i1 (s : State) (v : BitVec 4) : (s.driveOp v).i1 = s.i1 := rfl
@[simp] theorem State.driveOp_i2 (s : State) (v : BitVec 4) : (s.driveOp v).i2 = s.i2 := rfl
@[simp] theorem State.driveOp_y (s : State) (v : BitVec 4) :
    (s.driveOp v).y = blockFunction (s.driveOp v).request := rfl
@[simp] theorem State.driveOp_samples (s : State) (v : BitVec 4) :
    (s.driveOp v).samples = if State.allDriven { s with op := .driven v } then s.samples else s.samples + 1 := rfl

@[simp] theorem State.driveA_idxw (s : State) (v : Word) : (s.driveA v).idxw = s.idxw := rfl
@[simp] theorem State.driveA_op (s : State) (v : Word) : (s.driveA v).op = s.op := rfl
@[simp] theorem State.driveA_a (s : State) (v : Word) : (s.driveA v).a = .driven v := rfl
@[simp] theorem State.driveA_b (s : State) (v : Word) : (s.driveA v).b = s.b := rfl
@[simp] theorem State.driveA_i0 (s : State) (v : Word) : (s.driveA v).i0 = s.i0 := rfl
@[simp] theorem State.driveA_i1 (s : State) (v : Word) : (s.driveA v).i1 = s.i1 := rfl
@[simp] theorem State.driveA_i2 (s : State) (v : Word) : (s.driveA v).i2 = s.i2 := rfl
@[simp] theorem State.driveA_y (s : State) (v : Word) : (s.driveA v).y = blockFunction (s.driveA v).request := rfl
@[simp] theorem State.driveA_samples (s : State) (v : Word) :
    (s.driveA v).samples = if State.allDriven { s with a := .driven v } then s.samples else s.samples + 1 := rfl

@[simp] theorem State.driveB_idxw (s : State) (v : Word) : (s.driveB v).idxw = s.idxw := rfl
@[simp] theorem State.driveB_op (s : State) (v : Word) : (s.driveB v).op = s.op := rfl
@[simp] theorem State.driveB_a (s : State) (v : Word) : (s.driveB v).a = s.a := rfl
@[simp] theorem State.driveB_b (s : State) (v : Word) : (s.driveB v).b = .driven v := rfl
@[simp] theorem State.driveB_i0 (s : State) (v : Word) : (s.driveB v).i0 = s.i0 := rfl
@[simp] theorem State.driveB_i1 (s : State) (v : Word) : (s.driveB v).i1 = s.i1 := rfl
@[simp] theorem State.driveB_i2 (s : State) (v : Word) : (s.driveB v).i2 = s.i2 := rfl
@[simp] theorem State.driveB_y (s : State) (v : Word) : (s.driveB v).y = blockFunction (s.driveB v).request := rfl
@[simp] theorem State.driveB_samples (s : State) (v : Word) :
    (s.driveB v).samples = if State.allDriven { s with b := .driven v } then s.samples else s.samples + 1 := rfl

@[simp] theorem State.driveI0_idxw (s : State) (v : BitVec s.idxw) : (s.driveI0 v).idxw = s.idxw := rfl
@[simp] theorem State.driveI0_op (s : State) (v : BitVec s.idxw) : (s.driveI0 v).op = s.op := rfl
@[simp] theorem State.driveI0_a (s : State) (v : BitVec s.idxw) : (s.driveI0 v).a = s.a := rfl
@[simp] theorem State.driveI0_b (s : State) (v : BitVec s.idxw) : (s.driveI0 v).b = s.b := rfl
@[simp] theorem State.driveI0_i0 (s : State) (v : BitVec s.idxw) : (s.driveI0 v).i0 = .driven v := rfl
@[simp] theorem State.driveI0_i1 (s : State) (v : BitVec s.idxw) : (s.driveI0 v).i1 = s.i1 := rfl
@[simp] theorem State.driveI0_i2 (s : State) (v : BitVec s.idxw) : (s.driveI0 v).i2 = s.i2 := rfl
@[simp] theorem State.driveI0_y (s : State) (v : BitVec s.idxw) :
    (s.driveI0 v).y = blockFunction (s.driveI0 v).request := rfl
@[simp] theorem State.driveI0_samples (s : State) (v : BitVec s.idxw) :
    (s.driveI0 v).samples = if State.allDriven { s with i0 := .driven v } then s.samples else s.samples + 1 := rfl

@[simp] theorem State.driveI1_idxw (s : State) (v : BitVec s.idxw) : (s.driveI1 v).idxw = s.idxw := rfl
@[simp] theorem State.driveI1_op (s : State) (v : BitVec s.idxw) : (s.driveI1 v).op = s.op := rfl
@[simp] theorem State.driveI1_a (s : State) (v : BitVec s.idxw) : (s.driveI1 v).a = s.a := rfl
@[simp] theorem State.driveI1_b (s : State) (v : BitVec s.idxw) : (s.driveI1 v).b = s.b := rfl
@[simp] theorem State.driveI1_i0 (s : State) (v : BitVec s.idxw) : (s.driveI1 v).i0 = s.i0 := rfl
@[simp] theorem State.driveI1_i1 (s : State) (v : BitVec s.idxw) : (s.driveI1 v).i1 = .driven v := rfl
@[simp] theorem State.driveI1_i2 (s : State) (v : BitVec s.idxw) : (s.driveI1 v).i2 = s.i2 := rfl
@[simp] theorem State.driveI1_y (s : State) (v : BitVec s.idxw) :
    (s.driveI1 v).y = blockFunction (s.driveI1 v).request := rfl
@[simp] theorem State.driveI1_samples (s : State) (v : BitVec s.idxw) :
    (s.driveI1 v).samples = if State.allDriven { s with i1 := .driven v } then s.samples else s.samples + 1 := rfl

@[simp] theorem State.driveI2_idxw (s : State) (v : BitVec s.idxw) : (s.driveI2 v).idxw = s.idxw := rfl
@[simp] theorem State.driveI2_op (s : State) (v : BitVec s.idxw) : (s.driveI2 v).op = s.op := rfl
@[simp] theorem State.driveI2_a (s : State) (v : BitVec s.idxw) : (s.driveI2 v).a = s.a := rfl
@[simp] theorem State.driveI2_b (s : State) (v : BitVec s.idxw) : (s.driveI2 v).b = s.b := rfl
@[simp] theorem State.driveI2_i0 (s : State) (v : BitVec s.idxw) : (s.driveI2 v).i0 = s.i0 := rfl
@[simp] theorem State.driveI2_i1 (s : State) (v : BitVec s.idxw) : (s.driveI2 v).i1 = s.i1 := rfl
@[simp] theorem State.driveI2_i2 (s : State) (v : BitVec s.idxw) : (s.driveI2 v).i2 = .driven v := rfl
@[simp] theorem State.driveI2_y (s : State) (v : BitVec s.idxw) :
    (s.driveI2 v).y = blockFunction (s.driveI2 v).request := rfl
@[simp] theorem State.driveI2_samples (s : State) (v : BitVec s.idxw) :
    (s.driveI2 v).samples = if State.allDriven { s with i2 := .driven v } then s.samples else s.samples + 1 := rfl

@[simp] theorem State.carrying_idxw {n : Nat} (r : Request n) (y : Word) (samples : Nat) :
    (State.carrying r y samples).idxw = n := rfl
@[simp] theorem State.carrying_op {n : Nat} (r : Request n) (y : Word) (samples : Nat) :
    (State.carrying r y samples).op = .driven r.op := rfl
@[simp] theorem State.carrying_a {n : Nat} (r : Request n) (y : Word) (samples : Nat) :
    (State.carrying r y samples).a = .driven r.a := rfl
@[simp] theorem State.carrying_b {n : Nat} (r : Request n) (y : Word) (samples : Nat) :
    (State.carrying r y samples).b = .driven r.b := rfl
@[simp] theorem State.carrying_i0 {n : Nat} (r : Request n) (y : Word) (samples : Nat) :
    (State.carrying r y samples).i0 = .driven r.i0 := rfl
@[simp] theorem State.carrying_i1 {n : Nat} (r : Request n) (y : Word) (samples : Nat) :
    (State.carrying r y samples).i1 = .driven r.i1 := rfl
@[simp] theorem State.carrying_i2 {n : Nat} (r : Request n) (y : Word) (samples : Nat) :
    (State.carrying r y samples).i2 = .driven r.i2 := rfl
@[simp] theorem State.carrying_y {n : Nat} (r : Request n) (y : Word) (samples : Nat) :
    (State.carrying r y samples).y = y := rfl
@[simp] theorem State.carrying_samples {n : Nat} (r : Request n) (y : Word) (samples : Nat) :
    (State.carrying r y samples).samples = samples := rfl

@[simp] theorem State.present_idxw (s : State) (r : Request s.idxw) : (s.present r).idxw = s.idxw := rfl
@[simp] theorem State.present_op (s : State) (r : Request s.idxw) : (s.present r).op = .driven r.op := rfl
@[simp] theorem State.present_a (s : State) (r : Request s.idxw) : (s.present r).a = .driven r.a := rfl
@[simp] theorem State.present_b (s : State) (r : Request s.idxw) : (s.present r).b = .driven r.b := rfl
@[simp] theorem State.present_i0 (s : State) (r : Request s.idxw) : (s.present r).i0 = .driven r.i0 := rfl
@[simp] theorem State.present_i1 (s : State) (r : Request s.idxw) : (s.present r).i1 = .driven r.i1 := rfl
@[simp] theorem State.present_i2 (s : State) (r : Request s.idxw) : (s.present r).i2 = .driven r.i2 := rfl
@[simp] theorem State.present_y (s : State) (r : Request s.idxw) : (s.present r).y = blockFunction r := rfl
@[simp] theorem State.present_samples (s : State) (r : Request s.idxw) : (s.present r).samples = s.samples := rfl

@[simp] theorem State.resetAt_idxw (n : Nat) : (State.resetAt n).idxw = n := rfl
@[simp] theorem State.resetAt_op (n : Nat) : (State.resetAt n).op = .undriven := rfl
@[simp] theorem State.resetAt_a (n : Nat) : (State.resetAt n).a = .undriven := rfl
@[simp] theorem State.resetAt_b (n : Nat) : (State.resetAt n).b = .undriven := rfl
@[simp] theorem State.resetAt_i0 (n : Nat) : (State.resetAt n).i0 = .undriven := rfl
@[simp] theorem State.resetAt_i1 (n : Nat) : (State.resetAt n).i1 = .undriven := rfl
@[simp] theorem State.resetAt_i2 (n : Nat) : (State.resetAt n).i2 = .undriven := rfl
@[simp] theorem State.resetAt_y (n : Nat) : (State.resetAt n).y = blockFunction (undrivenRequest n 0) := rfl
@[simp] theorem State.resetAt_samples (n : Nat) : (State.resetAt n).samples = 0 := rfl
@[simp] theorem State.reset_eq : State.reset = State.resetAt Config.idxw := rfl

@[simp] theorem Port.value_driven {w : Nat} (v free : BitVec w) : (Port.driven v).value free = v := rfl
@[simp] theorem Port.value_undriven {w : Nat} (free : BitVec w) : (Port.undriven : Port w).value free = free := rfl
@[simp] theorem Port.isDriven_driven {w : Nat} (v : BitVec w) : (Port.driven v).isDriven = true := rfl
@[simp] theorem Port.isDriven_undriven {w : Nat} : (Port.undriven : Port w).isDriven = false := rfl

@[simp] theorem State.drive_op (s : State) (v : BitVec 4) : s.drive (.op v) = s.driveOp v := rfl
@[simp] theorem State.drive_a (s : State) (v : Word) : s.drive (.a v) = s.driveA v := rfl
@[simp] theorem State.drive_b (s : State) (v : Word) : s.drive (.b v) = s.driveB v := rfl
@[simp] theorem State.drive_i0 (s : State) (v : BitVec s.idxw) : s.drive (.i0 v) = s.driveI0 v := rfl
@[simp] theorem State.drive_i1 (s : State) (v : BitVec s.idxw) : s.drive (.i1 v) = s.driveI1 v := rfl
@[simp] theorem State.drive_i2 (s : State) (v : BitVec s.idxw) : s.drive (.i2 v) = s.driveI2 v := rfl
@[simp] theorem State.drive_request (s : State) (r : Request s.idxw) : s.drive (.request r) = s.present r := rfl

end Sys2Proof.Machine
end

