-- ==== Sys2Proof/Laws/Ops.lean ====
section
/-! SUPPORT. What the operations over the ports do, said once each. -/

namespace Sys2Proof.Machine

/-- A port is driven exactly when it carries a value. -/
theorem Port.isDriven_iff {w : Nat} (p : Port w) : p.isDriven = true ↔ ∃ v, p = .driven v := by
  cases p <;> simp

/-- The request on the ports does not depend on `y`. -/
@[simp] theorem State.request_driveY (s : State) (v : Word) : (s.driveY v).request = s.request := rfl

/-- Which ports are driven does not depend on `y`. -/
@[simp] theorem State.allDriven_driveY (s : State) (v : Word) : (s.driveY v).allDriven = s.allDriven := rfl

/-- Which ports are driven does not depend on the sample. -/
@[simp] theorem State.allDriven_sampled (s : State) : s.sampled.allDriven = s.allDriven := rfl

/-- A settled block carries the request of its sample. -/
theorem State.request_settle (s : State) : s.settle.request = s.sampled.request := rfl

/-- Settling drives `y` with F of the ports at their next sample, and moves the model's counter at most. -/
theorem State.settle_eq (s : State) :
    s.settle = { s with y := blockFunction s.sampled.request, samples := s.sampled.samples } := rfl

/-- After settling, the output is F of what the ports carry. -/
theorem State.settled_settle (s : State) : s.settle.settled := rfl

/-- No operation of the requester changes the index width. -/
@[simp] theorem State.drive_idxw (s : State) (d : Drive s.idxw) : (s.drive d).idxw = s.idxw := by
  cases d <;> rfl

/-- Sampling changes at most the model's counter. -/
theorem State.sampled_eq (s : State) : ∃ k, s.sampled = { s with samples := k } := ⟨_, rfl⟩

/-- Sampling changes nothing where every port is driven. -/
theorem State.sampled_of_allDriven (s : State) (h : s.allDriven = true) : s.sampled = s := by
  simp [State.sampled, h]

/-- A block that carries a request drives every port. -/
@[simp] theorem State.allDriven_carrying {n : Nat} (r : Request n) (y : Word) (samples : Nat) :
    (State.carrying r y samples).allDriven = true := rfl

/-- A block that carries a request has it on its ports. -/
@[simp] theorem State.request_carrying {n : Nat} (r : Request n) (y : Word) (samples : Nat) :
    (State.carrying r y samples).request = r := rfl

/-- Sampling leaves a block that carries a request as it is. -/
@[simp] theorem State.sampled_carrying {n : Nat} (r : Request n) (y : Word) (samples : Nat) :
    (State.carrying r y samples).sampled = State.carrying r y samples := rfl

/-- A presented request is on the ports, and `y` is F of it. -/
theorem State.present_eq (s : State) (r : Request s.idxw) :
    s.present r = State.carrying r (blockFunction r) s.samples := rfl

/-- A presented request is the one the ports carry. -/
@[simp] theorem State.request_present (s : State) (r : Request s.idxw) : (s.present r).request = r := rfl

/-- A presented request drives every port. -/
@[simp] theorem State.allDriven_present (s : State) (r : Request s.idxw) : (s.present r).allDriven = true := rfl

/-- Presenting a request overwrites whatever the ports carried. -/
@[simp] theorem State.present_present (s : State) (r q : Request s.idxw) : (s.present q).present r = s.present r := rfl

/-- The request on the ports after power-up is that of the undriven ports. -/
@[simp] theorem State.request_resetAt (n : Nat) : (State.resetAt n).request = undrivenRequest n 0 := rfl

end Sys2Proof.Machine
end

