-- ==== Sys2Proof/Laws/PerInstr.lean ====
section
/-! SUPPORT. The family OpcodeRow: the canonical request of every instruction carries a select code that the row of its
mnemonic recognises, and no other row does (30_encoding.md R39, R47). -/

namespace Sys2Proof.Laws.OpcodeRow

/-- The mnemonics of the rows that recognise a select code. -/
def rowsOf (op : BitVec 4) : List String := (opcodeTable.filter fun row => row.recognises op).map OpcodeRow.mnemonic

/-- At every index width, the rows that recognise the instruction's request are the one row of its mnemonic. -/
def Statement (i : Instr) : Prop := ∀ n, rowsOf (encodeRequest n i).op = [i.mnemonic]

/-- The rows by select code: the table of R39, and the two reserved rows of R47. -/
theorem rowsOf_code (op : BitVec 4) :
    rowsOf op = [["buildWord", "getByte", "getBits", "setBits", "clearBits", "copyBits", "setByte", "sign",
      "addWouldOverflow", "subWouldOverflow", "reserved_101x", "reserved_101x"].getD op.toNat "reserved_11xx"] := by
  revert op
  decide

theorem buildWord (bytes : ByteSeq) : Statement (.buildWord bytes) := fun _ => rowsOf_code 0
theorem getByte (source : Word) (byteIndex : Int) : Statement (.getByte source byteIndex) := fun _ => rowsOf_code 1
theorem getBits (source : Word) (low high : Int) : Statement (.getBits source low high) := fun _ => rowsOf_code 2
theorem setBits (source : Word) (low high : Int) : Statement (.setBits source low high) := fun _ => rowsOf_code 3
theorem clearBits (source : Word) (low high : Int) : Statement (.clearBits source low high) := fun _ => rowsOf_code 4
theorem copyBits (source dest : Word) (srcLow dstLow length : Int) :
    Statement (.copyBits source dest srcLow dstLow length) := fun _ => rowsOf_code 5
theorem setByte (source : Word) (byteIndex : Int) : Statement (.setByte source byteIndex) := fun _ => rowsOf_code 6
theorem sign (source : Word) : Statement (.sign source) := fun _ => rowsOf_code 7
theorem addWouldOverflow (op1 op2 : Word) : Statement (.addWouldOverflow op1 op2) := fun _ => rowsOf_code 8
theorem subWouldOverflow (op1 op2 : Word) : Statement (.subWouldOverflow op1 op2) := fun _ => rowsOf_code 9

theorem reserved101x (x : BitVec 1) : Statement (.reserved101x x) := by
  have hx : rowsOf (0b101#3 ++ x) = ["reserved_101x"] := by
    revert x
    decide
  exact fun _ => hx

theorem reserved11xx (xx : BitVec 2) : Statement (.reserved11xx xx) := by
  have hx : rowsOf (0b11#2 ++ xx) = ["reserved_11xx"] := by
    revert xx
    decide
  exact fun _ => hx

end Sys2Proof.Laws.OpcodeRow
end

