-- ==== Sys2Proof/Laws/Shifter.lean ====
section
/-! SUPPORT. What the shifter, the mask source, the field selector and the sign bit do, bit by bit. -/

namespace Sys2Proof.Machine

/-- Bit k of a left shift (R12). -/
@[simp] theorem getLsbD_shl (w : Word) (n : Fin 64) (k : Nat) :
    (shl w n).getLsbD k = (decide (k < 64) && !decide (k < n.val) && w.getLsbD (k - n.val)) := by
  simp [shl, BitVec.getLsbD_shiftLeft]

/-- Bit k of a zero-filling right shift (R12). -/
@[simp] theorem getLsbD_lshr (w : Word) (n : Fin 64) (k : Nat) : (lshr w n).getLsbD k = w.getLsbD (n.val + k) := by
  simp [lshr]

/-- Bit k of a zero-extended vector (R11). -/
@[simp] theorem getLsbD_zext64 {n : Nat} (v : BitVec n) (k : Nat) :
    (zext64 v).getLsbD k = (decide (k < 64) && v.getLsbD k) := by
  simp [zext64, BitVec.getLsbD_setWidth]

/-- Bit k of a slice (R9). -/
@[simp] theorem getLsbD_slice (w : Word) (lo len k : Nat) :
    (slice w lo len).getLsbD k = (decide (k < len) && w.getLsbD (lo + k)) := by
  simp [slice, BitVec.getLsbD_extractLsb']

/-- Bit k of `ones(n)` (R11). -/
@[simp] theorem getLsbD_ones (n : Fin 65) (k : Nat) : (ones n).getLsbD k = (decide (k < 64) && decide (k < n.val)) := by
  simp [ones]

/-- Bit k of an encoded verdict (R46). -/
@[simp] theorem getLsbD_zextBool (r : Bool) (k : Nat) : (zextBool r).getLsbD k = (decide (k = 0) && r) := by
  cases r <;> simp [zextBool, zext64, BitVec.getLsbD_one]

/-- Bit k of a left shift, as an element (R12). -/
@[simp] theorem getElem_shl (w : Word) (n : Fin 64) (k : Nat) (hk : k < 64) :
    (shl w n)[k] = (!decide (k < n.val) && w.getLsbD (k - n.val)) := by
  rw [← BitVec.getLsbD_eq_getElem, getLsbD_shl]
  simp only [hk, decide_true, Bool.true_and]

/-- Bit k of a right shift, as an element (R12). -/
@[simp] theorem getElem_lshr (w : Word) (n : Fin 64) (k : Nat) (hk : k < 64) :
    (lshr w n)[k] = w.getLsbD (n.val + k) := by
  rw [← BitVec.getLsbD_eq_getElem, getLsbD_lshr]

/-- Bit k of a zero-extended vector, as an element (R11). -/
@[simp] theorem getElem_zext64 {n : Nat} (v : BitVec n) (k : Nat) (hk : k < 64) : (zext64 v)[k] = v.getLsbD k := by
  rw [← BitVec.getLsbD_eq_getElem, getLsbD_zext64]
  simp only [hk, decide_true, Bool.true_and]

/-- Bit k of a slice, as an element (R9). -/
@[simp] theorem getElem_slice (w : Word) (lo len k : Nat) (hk : k < len) :
    (slice w lo len)[k] = w.getLsbD (lo + k) := by
  rw [← BitVec.getLsbD_eq_getElem, getLsbD_slice]
  simp only [hk, decide_true, Bool.true_and]

/-- Bit k of `ones(n)`, as an element (R11). -/
@[simp] theorem getElem_ones (n : Fin 65) (k : Nat) (hk : k < 64) : (ones n)[k] = decide (k < n.val) := by
  rw [← BitVec.getLsbD_eq_getElem, getLsbD_ones]
  simp only [hk, decide_true, Bool.true_and]

/-- Bit k of an encoded verdict, as an element (R46). -/
@[simp] theorem getElem_zextBool (r : Bool) (k : Nat) (hk : k < 64) : (zextBool r)[k] = (decide (k = 0) && r) := by
  rw [← BitVec.getLsbD_eq_getElem, getLsbD_zextBool]

/-- The length of a valid range, as an integer (R52). -/
theorem rangeLength_cast (low high : Int) (h : low ≤ high) : (rangeLength low high : Int) = high - low + 1 := by
  unfold rangeLength
  omega

/-- Bit k of the field mask: set exactly from `low` to `high` (R55). -/
theorem getLsbD_fieldMask (low high : Int) (h : validRange low high) (k : Nat) :
    (fieldMask low high h).getLsbD k = (decide (low ≤ k) && decide ((k : Int) ≤ high)) := by
  obtain ⟨h0, h1, h2⟩ := h
  simp only [fieldMask, getLsbD_shl, getLsbD_ones, rangeLength]
  rw [Bool.eq_iff_iff]
  simp only [Bool.and_eq_true, Bool.not_eq_true', decide_eq_true_eq, decide_eq_false_iff_not]
  omega

/-- The sign bit is the most significant one. -/
theorem signBit_eq_msb (w : Word) : signBit w = w.msb := by
  simp [signBit, BitVec.msb_eq_getLsbD_last]

/-- The sign bit says whether the two's-complement value is negative (R10, R71). -/
theorem signBit_iff (w : Word) : signBit w = true ↔ signedValue w < 0 := by
  rw [signBit_eq_msb, signedValue, BitVec.msb_eq_toInt]
  simp

end Sys2Proof.Machine
end

