-- ==== Sys2Proof/Tests/Slice0.lean ====
section
/-! SUPPORT. The model's own tests. Expected values are those of 95_test_vectors.md (the vector's id stands in the comment)
or are worked out by hand from the rule named. -/

namespace Sys2Proof.Tests

open Sys2Proof.Machine

/-- `y` after one step on a packed request presented to the block right after power-up. -/
def yOf (w : Nat) : Option Word :=
  match step (State.reset.withFetchWord 232 w) with
  | .next t => some t.y
  | .fault _ => none
  | .refused _ => none

/-! WellFormed: one ill-formed term for each check, and the ends of the interval. -/

theorem test_wellFormed_refuses_getByte_index : Instr.wellFormed 32 (.getByte 0 2147483648) = false := by decide
theorem test_wellFormed_refuses_getBits_low : Instr.wellFormed 32 (.getBits 0 (-2147483649) 0) = false := by decide
theorem test_wellFormed_refuses_getBits_high : Instr.wellFormed 32 (.getBits 0 0 2147483648) = false := by decide
theorem test_wellFormed_refuses_setBits_low : Instr.wellFormed 8 (.setBits 0 128 0) = false := by decide
theorem test_wellFormed_refuses_setBits_high : Instr.wellFormed 8 (.setBits 0 0 (-129)) = false := by decide
theorem test_wellFormed_refuses_clearBits_low : Instr.wellFormed 8 (.clearBits 0 (-129) 0) = false := by decide
theorem test_wellFormed_refuses_clearBits_high : Instr.wellFormed 8 (.clearBits 0 0 128) = false := by decide
theorem test_wellFormed_refuses_copyBits_srcLow : Instr.wellFormed 32 (.copyBits 0 0 2147483648 0 0) = false := by decide
theorem test_wellFormed_refuses_copyBits_dstLow : Instr.wellFormed 32 (.copyBits 0 0 0 (-2147483649) 0) = false := by
  decide
theorem test_wellFormed_refuses_copyBits_length : Instr.wellFormed 32 (.copyBits 0 0 0 0 2147483648) = false := by decide
theorem test_wellFormed_refuses_setByte_index : Instr.wellFormed 32 (.setByte 0 (-2147483649)) = false := by decide
theorem test_wellFormed_takes_the_ends :
    Instr.wellFormed 32 (.copyBits 0 0 (-2147483648) 2147483647 0) = true ∧
      Instr.wellFormed 8 (.getBits 0 (-128) 127) = true := by decide

/-! Decoding: for every row a word written out from its encoding, `i2_i1_i0_b_a_op` (30_encoding.md R41). -/

/-- BW1. -/
theorem test_decode_buildWord :
    decodeTableWord 232 0x00000000_00000000_00000000_0000000000000000_1122334455667788_0 =
      some (.buildWord ⟨0x88, 0x77, 0x66, 0x55, 0x44, 0x33, 0x22, 0x11⟩) := by decide
/-- GY10: the index is negative. -/
theorem test_decode_getByte :
    decodeTableWord 232 0x00000000_00000000_FFFFFFFF_0000000000000000_1122334455667788_1 =
      some (.getByte 0x1122334455667788 (-1)) := by decide
/-- RV4: `b` and `i2` are ignored. -/
theorem test_decode_getBits :
    decodeTableWord 232 0x80000000_00000007_00000000_FFFFFFFFFFFFFFFF_1122334455667788_2 =
      some (.getBits 0x1122334455667788 0 7) := by decide
/-- SB16. -/
theorem test_decode_setBits :
    decodeTableWord 232 0x00000000_7FFFFFFF_80000000_0000000000000000_0000000000000000_3 =
      some (.setBits 0 (-2147483648) 2147483647) := by decide
/-- CB5. -/
theorem test_decode_clearBits :
    decodeTableWord 232 0x00000000_0000003F_00000030_0000000000000000_1122334455667788_4 =
      some (.clearBits 0x1122334455667788 48 63) := by decide
/-- CP6. -/
theorem test_decode_copyBits :
    decodeTableWord 232 0x00000018_00000028_00000010_AAAAAAAAAAAAAAAA_1122334455667788_5 =
      some (.copyBits 0x1122334455667788 0xAAAAAAAAAAAAAAAA 16 40 24) := by decide
/-- SY9. -/
theorem test_decode_setByte :
    decodeTableWord 232 0x00000000_00000000_00000007_0000000000000000_1122334455667788_6 =
      some (.setByte 0x1122334455667788 7) := by decide
/-- RV3: every port but `a` is ignored. -/
theorem test_decode_sign :
    decodeTableWord 232 0x0000004D_FFFFFFF7_00000005_AAAAAAAAAAAAAAAA_8000000000000000_7 =
      some (.sign 0x8000000000000000) := by decide
/-- AD3. -/
theorem test_decode_addWouldOverflow :
    decodeTableWord 232 0x00000000_00000000_00000000_7FFFFFFFFFFFFFFE_0000000000000001_8 =
      some (.addWouldOverflow 1 0x7FFFFFFFFFFFFFFE) := by decide
/-- RV6. -/
theorem test_decode_subWouldOverflow :
    decodeTableWord 232 0x0000003F_0000003F_0000003F_8000000000000000_0000000000000001_9 =
      some (.subWouldOverflow 1 0x8000000000000000) := by decide
/-- RV1, and code 11. -/
theorem test_decode_reserved101x :
    decodeTableWord 232 0x00000003_00000002_00000001_AAAAAAAAAAAAAAAA_1122334455667788_A = some (.reserved101x 0) ∧
      decodeTableWord 8 0xB = some (.reserved101x 1) := by decide
/-- Code 12, and RV2. -/
theorem test_decode_reserved11xx :
    decodeTableWord 8 0xC = some (.reserved11xx 0) ∧
      decodeTableWord 232 0xFFFFFFFF_FFFFFFFF_FFFFFFFF_FFFFFFFFFFFFFFFF_FFFFFFFFFFFFFFFF_F = some (.reserved11xx 3) := by
  decide
/-- A number wider than 228 bits is rejected by name (R41, log 8). -/
theorem test_decode_rejects_wider_numbers :
    decodeNumber 32 (2 ^ 228) = .error .requestTooWide ∧ decodeTableWord 232 (2 ^ 228) = none := by
  constructor <;> decide
/-- The packed form of CP5, written out from R41. -/
theorem test_encode_copyBits :
    (encode 32 (.copyBits 0x1122334455667788 0xAAAAAAAAAAAAAAAA 4 12 8)).toNat =
      0x00000008_0000000C_00000004_AAAAAAAAAAAAAAAA_1122334455667788_5 := by decide

/-! One step on a presented request. -/

/-- BW2. -/
theorem test_step_buildWord :
    yOf 0x00000000_00000000_00000000_0000000000000000_0807060504030201_0 = some 0x0807060504030201 := by decide
/-- bytes[0] is the least significant (R65): not symmetric under reversal. -/
theorem test_buildWord_order : buildWord ⟨0x80, 0, 0, 0, 0, 0, 0, 0x11⟩ = 0x1100000000000080 := by decide
/-- GY4. -/
theorem test_step_getByte :
    yOf 0x00000000_00000000_00000003_0000000000000000_1122334455667788_1 = some 0x55 := by decide
/-- GY13: 8*i must not wrap. -/
theorem test_step_getByte_invalid :
    yOf 0x00000000_00000000_7FFFFFFF_0000000000000000_1122334455667788_1 = some 0 := by decide
/-- GB11. -/
theorem test_step_getBits :
    yOf 0x00000000_0000003E_00000001_0000000000000000_1122334455667788_2 = some 0x089119A22AB33BC4 := by decide
/-- GB15. -/
theorem test_step_getBits_invalid :
    yOf 0x00000000_00000007_00000008_0000000000000000_1122334455667788_2 = some 0 := by decide
/-- SB10. -/
theorem test_step_setBits :
    yOf 0x00000000_0000003F_00000001_0000000000000000_0000000000000000_3 = some 0xFFFFFFFFFFFFFFFE := by decide
/-- SB14: not the zero of getBits. -/
theorem test_step_setBits_invalid :
    yOf 0x00000000_00000007_00000008_0000000000000000_1122334455667788_3 = some 0x1122334455667788 := by decide
/-- CB2: the whole word. -/
theorem test_step_clearBits :
    yOf 0x00000000_0000003F_00000000_0000000000000000_1122334455667788_4 = some 0 := by decide
/-- CB6. -/
theorem test_step_clearBits_unaligned :
    yOf 0x00000000_0000000B_00000004_0000000000000000_1122334455667788_4 = some 0x1122334455667008 := by decide
/-- CP5. -/
theorem test_step_copyBits :
    yOf 0x00000008_0000000C_00000004_AAAAAAAAAAAAAAAA_1122334455667788_5 = some 0xAAAAAAAAAAA78AAA := by decide
/-- CP27: the sum must not wrap. -/
theorem test_step_copyBits_invalid :
    yOf 0x7FFFFFFF_00000000_0000003F_AAAAAAAAAAAAAAAA_1122334455667788_5 = some 0xAAAAAAAAAAAAAAAA := by decide
/-- SY5. -/
theorem test_step_setByte :
    yOf 0x00000000_00000000_00000003_0000000000000000_1122334455667788_6 = some 0x11223344FF667788 := by decide
/-- SY10. -/
theorem test_step_setByte_invalid :
    yOf 0x00000000_00000000_00000008_0000000000000000_1122334455667788_6 = some 0x1122334455667788 := by decide
/-- SG7. -/
theorem test_step_sign :
    yOf 0x00000000_00000000_00000000_0000000000000000_EFFFFFFFFFFFFFFF_7 = some 1 := by decide
/-- AD8. -/
theorem test_step_addWouldOverflow :
    yOf 0x00000000_00000000_00000000_8000000000000000_FFFFFFFFFFFFFFFF_8 = some 1 := by decide
/-- AD11: mixed signs (conflict C1). -/
theorem test_step_addWouldOverflow_mixed :
    yOf 0x00000000_00000000_00000000_FFFFFFFFFFFFFFFF_0000000000000001_8 = some 0 := by decide
/-- SU4: 0 - MIN. -/
theorem test_step_subWouldOverflow :
    yOf 0x00000000_00000000_00000000_0000000000000000_8000000000000000_9 = some 1 := by decide
/-- SU2 (conflict C2). -/
theorem test_step_subWouldOverflow_corrected :
    yOf 0x00000000_00000000_00000000_EFFFFFFFFFFFFFFF_0000000000000001_9 = some 0 := by decide
/-- RV1. -/
theorem test_step_reserved101x :
    yOf 0x00000003_00000002_00000001_AAAAAAAAAAAAAAAA_1122334455667788_A = some 0 := by decide
/-- RV2. -/
theorem test_step_reserved11xx :
    yOf 0xFFFFFFFF_FFFFFFFF_FFFFFFFF_FFFFFFFFFFFFFFFF_FFFFFFFFFFFFFFFF_F = some 0 := by decide
/-- sign with only `op` and `a` driven: `y` follows at once, and the undriven ports do not matter (R19, R92, R95). -/
theorem test_sign_partly_driven :
    ((State.reset.driveOp 7).driveA 0x8000000000000000).y = 1 ∧
      (match step ((State.reset.driveOp 7).driveA 0x8000000000000000) with | .next t => some t.y | _ => none) = some 1 :=
  ⟨rfl, rfl⟩
/-- `y` follows a changed input before any step (R18, R95): bits 0..15, then GB1. -/
theorem test_y_follows_a_changed_input :
    let s := State.reset.present ⟨2, 0x1122334455667788, 0, 0, 15, 0⟩
    s.y = 0x7788 ∧ (s.driveI1 7).y = 0x88 := by decide
/-- A block of index width 8 (R7): SY5 and SY11 at that width, where the index -1 is 0xFF. -/
theorem test_step_at_width_8 :
    ((State.resetAt 8).withFetchWord 160 0x00_00_03_0000000000000000_1122334455667788_6).y = 0x11223344FF667788 ∧
      (match step ((State.resetAt 8).withFetchWord 160 0x00_00_FF_0000000000000000_1122334455667788_6) with
        | .next t => some t.y
        | _ => none) = some 0x1122334455667788 := by decide

/-! The assembler and the requester (30_encoding.md R50, R51). -/

/-- The source's own example S16, with hexadecimal indices. -/
theorem test_assemble_clearBits :
    assembleLine 32 [] "clearBits(0x1122334455667788, 0x30, 0x3f)".toList =
      .ok (.clearBits 0x1122334455667788 48 63) := by decide
/-- A binding, a second spelling and a bound name. -/
theorem test_assemble_bound_name :
    assembleLine 32 [("t0".toList, 5)] "r = subOverflow(t0, 7)".toList = .ok (.subWouldOverflow 5 7) := by decide
/-- Braced bytes: codes 123 and 125. -/
theorem test_assemble_buildLong :
    assembleLine 32 []
        ("buildLong(".toList ++ [Char.ofNat 123] ++ "1, 2, 3, 4, 5, 6, 7, 0xFF".toList ++ [Char.ofNat 125, ')']) =
      .ok (.buildWord ⟨1, 2, 3, 4, 5, 6, 7, 0xFF⟩) := by decide
/-- Index literals outside the port's interval are rejected. -/
theorem test_assemble_rejects_wide_index :
    assembleLine 8 [] "getByte(0x0, -129)".toList = .error .indexOutOfRange ∧
      assembleLine 8 [] "getByte(0x0, 128)".toList = .error .indexOutOfRange ∧
      assembleLine 8 [] "getByte(0x0, -128)".toList = .ok (.getByte 0 (-128)) := by
  refine ⟨?_, ?_, ?_⟩ <;> decide
/-- The other rejections, by name. -/
theorem test_assemble_rejections :
    assembleLine 32 [] "sign 5".toList = .error .badForm ∧
      assembleLine 32 [] "clearByte(0x0, 3)".toList = .error .unknownMnemonic ∧
      assembleLine 32 [] "sign(0x0, 3)".toList = .error .wrongOperands ∧
      assembleLine 32 [] "sign(0x11223344556677889)".toList = .error .wordOutOfRange ∧
      assembleLine 32 [] "sign(t9)".toList = .error .unboundName := by
  refine ⟨?_, ?_, ?_, ?_, ?_⟩ <;> decide
/-- The written request of SU3, and the ways results are written (R41, R50). -/
theorem test_texts :
    requestText (encodeRequest 32 (.subWouldOverflow 1 0x8000000000000000)) =
        "00000000_00000000_00000000_8000000000000000_0000000000000001_9".toList ∧
      resultTexts .word 0x88 = ["0x0000000000000088".toList] ∧
      resultTexts .bool 1 = ["1".toList, "true".toList] := by
  refine ⟨?_, ?_, ?_⟩ <;> decide
/-- P2, its first line and the host's choice: x = 0xF8A0. -/
theorem test_host_lines :
    (match parseCall (tokens "t0 = getBits(0x000000000000F8A0, 4, 15)".toList) with
      | some c => (runLines State.reset [("one".toList, 1)]
          [.request c, .choose "t3".toList "one".toList "t0".toList "one".toList]).toOption
      | none => none) =
      some ([0xF8A], [("t3".toList, 0xF8A), ("t0".toList, 0xF8A), ("one".toList, 1)]) := by decide

/-! Witnesses: concrete states and operands that meet the hypotheses of the statements, at the boundaries of their
clauses. -/

/-- A request whose every field is nonzero. -/
def sampleRequest (op : BitVec 4) : Request Config.idxw :=
  { op := op, a := 0x1122334455667788, b := 0xAAAAAAAAAAAAAAAA, i0 := 8, i1 := 15, i2 := 4 }

/-- DecodeOfEncodeIsIdentity, AssemblerOutputIsWellFormed: an admitted width and a well-formed instruction. -/
theorem witness_wellFormed :
    Config.AdmittedWidth 8 ∧ Instr.wellFormed 8 (.copyBits 1 2 (-128) 127 64) = true ∧
      assembleLine 8 [] "getBits(0x1, -128, 127)".toList = .ok (.getBits 1 (-128) 127) := by
  refine ⟨by decide, by decide, by decide⟩
/-- UnusedFieldsIgnoredAndWrittenZero, UnusedPortsDoNotInfluenceTheResult: two different requests that agree on the used
fields; witness_carries shows that states carry them. -/
theorem witness_agreesOnUsed :
    (sampleRequest 7).agreesOnUsed (encodeRequest 32 (.sign 0x1122334455667788)) ∧
      sampleRequest 7 ≠ encodeRequest 32 (.sign 0x1122334455667788) := by
  refine ⟨⟨rfl, ?_⟩, by decide⟩
  refine ⟨fun _ => rfl, ?_, ?_, ?_, ?_⟩ <;> (intro h; revert h; decide)
/-- UndrivenUnusedPortsHaveNoEffect: one state with the unused ports undriven, one with all driven, both settled. -/
theorem witness_drivesUsed :
    ((State.reset.driveOp 7).driveA 0x1122334455667788).drivesUsed (sampleRequest 7) ∧
      (State.reset.present (sampleRequest 7)).drivesUsed (sampleRequest 7) ∧
      ((State.reset.driveOp 7).driveA 0x1122334455667788).settled ∧ (State.reset.present (sampleRequest 7)).settled := by
  refine ⟨⟨rfl, fun _ => rfl, ?_, ?_, ?_, ?_⟩,
    ⟨rfl, fun _ => rfl, fun _ => rfl, fun _ => rfl, fun _ => rfl, fun _ => rfl⟩, rfl, rfl⟩ <;>
    (intro h; revert h; decide)
/-- IndexPortsAreTwosComplement, IndexSumsDoNotWrap: the ends of the interval at the least width. -/
theorem witness_index_interval :
    Config.AdmittedWidth 8 ∧ idx (0x80#8) = -(2 ^ (8 - 1) : Int) ∧ idx (0x7F#8) = 2 ^ (8 - 1) - 1 := by decide
/-- StepRunsTheDecodedRequest, StepDrivesTheBlockFunction, UnusedPortsDoNotInfluenceTheResult: every request of any width
is carried by a settled state, words decode at both widths. -/
theorem witness_carries :
    (∀ (n : Nat) (r : Request n), ((State.resetAt n).present r).carries r ∧ ((State.resetAt n).present r).settled) ∧
      decodeRequest (sampleRequest 2) = .getBits 0x1122334455667788 8 15 ∧
      decodeTableWord 8 0xC = some (.reserved11xx 0) ∧ State.reset.idxw = Config.idxw ∧
      decodeNumber (State.resetAt 8).idxw (0xC % 2 ^ 8) = .ok (.reserved11xx 0) := by
  refine ⟨fun _ _ => ⟨⟨_, _, rfl⟩, rfl⟩, by decide, by decide, rfl, by decide⟩
/-- EveryStepKeepsTheOutputSettled: a driven, settled state and its step; and the state after power-up, where the premise
on driven ports fails. -/
theorem witness_settled :
    (State.reset.present (sampleRequest 2)).settled ∧ (State.reset.present (sampleRequest 2)).allDriven = true ∧
      step (State.reset.present (sampleRequest 2)) = .next (State.reset.present (sampleRequest 2)) ∧
      State.reset.settled ∧ State.reset.allDriven = false := by
  refine ⟨rfl, rfl, rfl, rfl, rfl⟩
/-- OutputIsAFunctionOfTheInputsAtEveryInstant: two reachable states of width 8, the second after a step, that carry one
request. -/
theorem witness_reachable :
    let r : Request 8 := encodeRequest 8 (.getByte 5 (-3))
    let s := (State.resetAt 8).present r
    let t := ((State.resetAt 8).driveOp 4).present r
    Reachable 8 s ∧ s.carries r ∧ Reachable 8 t ∧ t.carries r :=
  ⟨.driven (.request (encodeRequest 8 (.getByte 5 (-3)))) .powerUp, ⟨_, _, rfl⟩,
    .stepped (.driven (.request (encodeRequest 8 (.getByte 5 (-3)))) (.driven (.op 4) .powerUp)) rfl, ⟨_, _, rfl⟩⟩
/-- RequestsAreIdempotent: a presented request shows its result. -/
theorem witness_presented_step :
    (State.reset.present (sampleRequest 2)).y = getBits 0x1122334455667788 8 15 := by rfl
/-- IndexWidthsAgree, MachinesOfDifferentWidthsAgree: one request at two widths, each carried by a settled state. -/
theorem witness_two_widths :
    let r := encodeRequest 8 (.getByte 5 (-3))
    let q := encodeRequest 32 (.getByte 5 (-3))
    (Config.AdmittedWidth 8 ∧ Config.AdmittedWidth 32) ∧
      (r.op = q.op ∧ r.a = q.a ∧ r.b = q.b ∧ idx r.i0 = idx q.i0 ∧ idx r.i1 = idx q.i1 ∧ idx r.i2 = idx q.i2) ∧
      ((State.resetAt 8).present r).carries r ∧ ((State.resetAt 32).present q).carries q ∧
      ((State.resetAt 8).present r).settled ∧ ((State.resetAt 32).present q).settled :=
  ⟨by decide, by decide, ⟨_, _, rfl⟩, ⟨_, _, rfl⟩, rfl, rfl⟩
/-- The statements that name a select code: every code has a request. -/
theorem witness_select_codes : ∀ op : BitVec 4, (sampleRequest op).op = op := fun _ => rfl
/-- ReservedCodesAnswerZero: the ends of each reserved row. -/
theorem witness_reserved_codes :
    (sampleRequest 10).op = 10#4 ∧ (sampleRequest 11).op = 11#4 ∧ 12 ≤ (sampleRequest 12).op.toNat ∧
      12 ≤ (sampleRequest 15).op.toNat := by decide
/-- GetBitsResult, SetBitsResult, ClearBitsResult, WholeWordSetAndClear, MaskByShifterIsFieldMask, ReadBackLaws: valid
ranges at the ends, the whole word among them. -/
theorem witness_valid_ranges : validRange 0 63 ∧ validRange 0 0 ∧ validRange 63 63 ∧ (63 : Int) - 0 + 1 = 64 := by decide
/-- GetBitsResult, SetBitsResult, ClearBitsResult, SentinelTable: each violation just past the end. -/
theorem witness_invalid_ranges :
    ¬validRange (-1) 5 ∧ ¬validRange 0 64 ∧ ¬validRange 8 7 ∧ ((-1 : Int) < 0) ∧ ((64 : Int) > 63) ∧ ((7 : Int) < 8) := by
  decide
/-- CopyBitsResult, CopyReadBackLaws: valid copies at the ends. -/
theorem witness_valid_copies :
    validCopy 0 0 64 ∧ validCopy 63 63 1 ∧ validCopy 60 60 4 ∧ validCopy 0 0 0 ∧ (1 : Int) ≤ 64 := by decide
/-- CopyBitsResult, SentinelTable: each violation just past the end. -/
theorem witness_invalid_copies :
    ¬validCopy (-1) 0 4 ∧ ¬validCopy 0 (-1) 4 ∧ ¬validCopy 64 0 1 ∧ ¬validCopy 0 64 1 ∧ ¬validCopy 1 0 64 ∧
      ¬validCopy 0 1 64 := by decide
/-- CopyOfNothingReturnsDest, SentinelTable: lengths 0 and -1, with a valid and an invalid offset. -/
theorem witness_no_length :
    (0 : Int) ≤ 0 ∧ (-1 : Int) ≤ 0 ∧ validCopy 63 63 0 ∧ ¬validCopy 64 0 (-1) := by decide
/-- GetByteResult, SetByteResult, SentinelTable: byte indices at the ends and just past them. -/
theorem witness_byte_indices : validByte 0 ∧ validByte 7 ∧ ¬validByte (-1) ∧ ¬validByte 8 := by decide
/-- ByteLaneLaws: a sequence that holds the lanes of a Word, and two different lanes. -/
theorem witness_lanes_of_word :
    (∀ k : Fin 8, (carriedBytes 0x1122334455667788).at k = (getByte 0x1122334455667788 k.val).setWidth 8) ∧
      (3 : Fin 8) ≠ 4 := by decide
/-- ResultsAreEncodedOnY: the three operations whose result is no Word. -/
theorem witness_verdict_results :
    Instr.resultType (.sign 0) ≠ .word ∧ Instr.resultType (.addWouldOverflow 0 0) ≠ .word ∧
      Instr.resultType (.subWouldOverflow 0 0) ≠ .word := by decide
/-- HostLinesDoNotDependOnTheBlock, AnswersDependOnTheirOwnRequestOnly: two different blocks of one width, a list of lines
that runs, and a list of packed requests (SG7, RV1). -/
theorem witness_host_lines :
    State.reset.idxw = (State.reset.driveOp 3).idxw ∧ State.reset ≠ State.reset.driveOp 3 ∧
      (runLines State.reset [] [.request ⟨none, "sign".toList, [.scalar (.dec false 5)]⟩]).toOption = some ([0], []) ∧
      answers State.reset
        [0x00000000_00000000_00000000_0000000000000000_EFFFFFFFFFFFFFFF_7,
          0x00000003_00000002_00000001_AAAAAAAAAAAAAAAA_1122334455667788_A] = [1, 0] := by
  refine ⟨rfl, fun h => absurd (congrArg State.op h) (by decide), by decide, by decide⟩

end Sys2Proof.Tests
end

section
/-! The unsigned values of the two shifts of R12 (00_scope.md), and the obligation about them. -/

namespace Sys2Proof.Machine

/-- A left shift multiplies by 2^n and drops what leaves the Word at the top (R12). -/
@[simp] theorem toNat_shl (w : Word) (n : Fin 64) : (shl w n).toNat = w.toNat * 2 ^ n.val % 2 ^ 64 := by
  rw [shl, BitVec.toNat_shiftLeft, Nat.shiftLeft_eq]

/-- A zero-filling right shift divides by 2^n, rounding down (R12). -/
@[simp] theorem toNat_lshr (w : Word) (n : Fin 64) : (lshr w n).toNat = w.toNat / 2 ^ n.val := by
  rw [lshr, BitVec.toNat_ushiftRight, Nat.shiftRight_eq_div_pow]

/-- Settles O50, by the unsigned value of each shift. -/
theorem shiftsMultiplyAndDivide : Obligations.ShiftsMultiplyAndDivide :=
  fun w n => ⟨toNat_shl w n, toNat_lshr w n⟩

end Sys2Proof.Machine
end

section
/-! What one step does at every state, and which ports F reads (10_state.md R18, R19; 30_encoding.md R40). -/

namespace Sys2Proof.Machine

/-- Decode and exec compute F of R18: the arm that the select code picks drives `y` with the value of its row. -/
theorem exec_decodeRequest {n : Nat} (r : Request n) (s : State) :
    exec (decodeRequest r) s = .next (s.driveY (blockFunction r)) := by
  unfold decodeRequest
  split
  case h_13 =>
    -- Codes 12 to 15 are the default row of F as well.
    unfold blockFunction
    split
    case h_11 => rfl
    all_goals contradiction
  all_goals
    rename_i code
    simp only [blockFunction, code]
    rfl

/-- A step has one outcome: the output settles. -/
theorem step_eq_settle (s : State) : step s = .next s.settle :=
  exec_decodeRequest s.sampled.request s.sampled

/-- The next state of a step is the settled one. -/
theorem eq_settle_of_step {s t : State} (h : step s = .next t) : t = s.settle := by
  rw [step_eq_settle] at h
  exact (Host.Outcome.next.inj h).symm

/-- Settling a block that carries a request drives `y` with F of it. -/
theorem State.carries.settle_y {n : Nat} {s : State} {r : Request n} (h : s.carries r) :
    s.settle.y = blockFunction r := by
  obtain ⟨y, samples, rfl⟩ := h
  rfl

/-- A settled block that carries a request shows F of it (R18). -/
theorem State.settled.y_of_carries {n : Nat} {s : State} {r : Request n} (hs : s.settled) (h : s.carries r) :
    s.y = blockFunction r := by
  obtain ⟨y, samples, rfl⟩ := h
  exact hs

/-- F reads the select code and the ports of its row in the table of R40, and no other (R19). -/
theorem blockFunction_eq_of_agreesOnUsed {n : Nat} {r q : Request n} (h : r.agreesOnUsed q) :
    blockFunction r = blockFunction q := by
  obtain ⟨hop, ha, hb, hi0, hi1, hi2⟩ := h
  unfold blockFunction
  rw [← hop]
  split
  case h_11 => rfl -- Reserved codes read no port.
  all_goals
    -- The code of the row says which of the agreements stand; they rewrite what the row reads.
    rename_i code
    simp only [usedPorts, code, Bool.false_eq_true, false_implies, true_implies] at ha hb hi0 hi1 hi2
    simp only [ha, hb, hi0, hi1, hi2]

/-- Settles O3: F does not read the unused ports, and `y` is F of the ports after every step and in every settled
state. -/
theorem unusedPortsDoNotInfluenceTheResult : Obligations.UnusedPortsDoNotInfluenceTheResult := by
  intro n s s' r q hr hq agree
  have same : blockFunction r = blockFunction q := blockFunction_eq_of_agreesOnUsed agree
  refine ⟨⟨s.settle, s'.settle, step_eq_settle s, step_eq_settle s', hr.settle_y, ?_⟩, fun hs hs' => ?_⟩
  · rw [hq.settle_y, same]
  · rw [hs.y_of_carries hr, hs'.y_of_carries hq, same]

end Sys2Proof.Machine
end

section
/-! The invariant of the reachable states: the index width is kept, and the output is settled (10_state.md R18). -/

namespace Sys2Proof.Machine

/-- The output is settled after power-up (R27). -/
theorem State.settled_resetAt (n : Nat) : (State.resetAt n).settled := rfl

/-- Every operation of the requester leaves the output settled, from any state (R95). -/
theorem State.settled_drive (s : State) (d : Drive s.idxw) : (s.drive d).settled := by
  cases d with
  | request r => exact State.settled_settle (State.carrying r s.y s.samples)
  | _ => exact State.settled_settle _

/-- A block keeps the index width it was built with (R7). -/
theorem Reachable.idxw_eq {n : Nat} {s : State} (h : Reachable n s) : s.idxw = n := by
  induction h with
  | powerUp => rfl
  | driven d _ ih => rw [State.drive_idxw, ih]
  | stepped _ hstep ih => rw [eq_settle_of_step hstep, State.settle_idxw, ih]

/-- `y` is F of the ports at every instant (R18). -/
theorem Reachable.settled {n : Nat} {s : State} (h : Reachable n s) : s.settled := by
  cases h with
  | powerUp => exact State.settled_resetAt n
  | driven d _ => exact State.settled_drive _ d
  | stepped _ hstep =>
    rw [eq_settle_of_step hstep]
    exact State.settled_settle _

/-- Settles O55, from the invariant of the reachable states: a settled block shows F of the request it carries. -/
theorem outputIsAFunctionOfTheInputsAtEveryInstant : Obligations.OutputIsAFunctionOfTheInputsAtEveryInstant := by
  intro n s hs
  refine ⟨hs.idxw_eq, hs.settled, fun r hr => hs.settled.y_of_carries hr, fun s' r hs' hr hr' => ?_⟩
  rw [hs.settled.y_of_carries hr, hs'.settled.y_of_carries hr']

end Sys2Proof.Machine
end

section
/-! A list of packed requests is answered request by request: the block carries nothing from one to the next but its index
width (20_memory.md R35). -/

namespace Sys2Proof.Machine

/-- F of a packed request at index width `n` (10_state.md R18, 30_encoding.md R41; log 8). -/
def answerTo (n req : Nat) : Word := blockFunction (unpackRequest n (BitVec.ofNat _ req))

/-- A presented request has settled already, so the step that answers it changes nothing (20_memory.md section 4). -/
theorem step_present (s : State) (r : Request s.idxw) : step (s.present r) = .next (s.present r) :=
  step_eq_settle (s.present r)

/-- The first answer is F of the first request, and the others come from the block that carries it. -/
theorem answers_cons (s : State) (req : Nat) (reqs : List Nat) :
    answers s (req :: reqs) = answerTo s.idxw req :: answers (s.presentNumber req) reqs := by
  rw [answers, show step (s.presentNumber req) = .next (s.presentNumber req) from step_present s _]
  rfl

/-- A packed request leaves the index width as it is. -/
@[simp] theorem State.presentNumber_idxw (s : State) (req : Nat) : (s.presentNumber req).idxw = s.idxw := rfl

/-- The answers to a list are F of each request (R35 (a), (c)). -/
theorem answers_eq_map (s : State) (reqs : List Nat) : answers s reqs = reqs.map (answerTo s.idxw) := by
  induction reqs generalizing s with
  | nil => rfl
  | cons req reqs ih => rw [answers_cons, ih, State.presentNumber_idxw, List.map_cons]

/-- Settles O18: the answers are a map over the requests by a function of the index width alone, so they split where the
list splits, swap where two requests swap, and are the same on every block of that width. -/
theorem answersDependOnTheirOwnRequestOnly : Obligations.AnswersDependOnTheirOwnRequestOnly := by
  refine ⟨answers_eq_map, fun s s' before after r q hwidth => ?_⟩
  simp only [answers_eq_map, ← hwidth]
  constructor
  · simp only [List.map_append, List.map_cons, List.map_nil, List.append_assoc, List.cons_append, List.nil_append]
  · rfl

end Sys2Proof.Machine
end

section
/-! The unsigned value of a byte lane, and the obligation about lanes (20_memory.md R31). -/

namespace Sys2Proof

/-- Lane k is the Word without its lowest 8k bits, cut to eight bits (R31). -/
theorem toNat_lane (w : Word) (k : Fin 8) : (lane w k).toNat = w.toNat / 2 ^ (8 * k.val) % 2 ^ 8 := by
  rw [lane, BitVec.extractLsb'_toNat, Nat.shiftRight_eq_div_pow]

/-- Settles O37, by the unsigned value of a lane and by its bits. -/
theorem laneIsEightBitsOfTheWord : Obligations.LaneIsEightBitsOfTheWord := by
  intro w k
  refine ⟨toNat_lane w k, fun j hj => ?_⟩
  rw [getLsbD_lane, decide_eq_true hj, Bool.true_and]

end Sys2Proof
end

section
/-! What the decoder reads and what the encoder writes (30_encoding.md R40, R43), and the obligation about unused fields. -/

namespace Sys2Proof

open Sys2Proof.Machine (zext64 slice getLsbD_zext64 getLsbD_slice)

/-- A lane moved to its place extends the bits below it by eight. -/
theorem zext64_slice_or_lane (w : Word) (k : Fin 8) (low : Nat) (hlow : low = 8 * k.val) :
    zext64 (slice w 0 low) ||| (lane w k).setWidth 64 <<< low = zext64 (slice w 0 (low + 8)) := by
  subst hlow
  refine BitVec.eq_of_getLsbD_eq fun j hj => ?_
  simp only [BitVec.getLsbD_or, BitVec.getLsbD_shiftLeft, BitVec.getLsbD_setWidth, getLsbD_zext64, getLsbD_slice,
    getLsbD_lane, Nat.zero_add, hj, decide_true, Bool.true_and]
  by_cases below : j < 8 * k.val
  · have inside : j < 8 * k.val + 8 := by omega
    simp [below, inside]
  · have place : 8 * k.val + (j - 8 * k.val) = j := by omega
    have inLane : j - 8 * k.val < 64 := by omega
    have last : j - 8 * k.val < 8 ↔ j < 8 * k.val + 8 := by omega
    simp [below, place, inLane, last]

/-- All 64 bits of a Word are the Word. -/
theorem zext64_slice_all (w : Word) : zext64 (slice w 0 64) = w := by
  refine BitVec.eq_of_getLsbD_eq fun j hj => ?_
  simp [hj]

/-- Carrying the eight lanes of a Word gives the Word: lane by lane, its low 8, 16, ..., 64 bits (R42). -/
@[simp] theorem carryBytes_carriedBytes (w : Word) : carryBytes (carriedBytes w) = w := by
  have lowest : (lane w 0).setWidth 64 = zext64 (slice w 0 8) := rfl
  simp only [carryBytes, carriedBytes, lowest]
  rw [zext64_slice_or_lane w 1 8 rfl, zext64_slice_or_lane w 2 16 rfl, zext64_slice_or_lane w 3 24 rfl,
    zext64_slice_or_lane w 4 32 rfl, zext64_slice_or_lane w 5 40 rfl, zext64_slice_or_lane w 6 48 rfl,
    zext64_slice_or_lane w 7 56 rfl, zext64_slice_all]

/-- The fixed bits of the last reserved row and the two it leaves open make up the code (R47). -/
theorem reserved11xx_code (op : BitVec 4) (h : 12 ≤ op.toNat) : 0b11#2 ++ op.extractLsb' 0 2 = op := by
  revert op
  decide

/-- A reserved code uses no port (R40, R47). -/
theorem usedPorts_reserved (op : BitVec 4) (h : 10 ≤ op.toNat) : usedPorts op = ⟨false, false, false, false, false⟩ := by
  revert op
  decide

/-- Decoding keeps the select code (R39). -/
@[simp] theorem opcode_decodeRequest {n : Nat} (r : Request n) : (decodeRequest r).opcode = r.op := by
  unfold decodeRequest
  split
  case h_13 =>
    simp only [imp_false] at *
    exact reserved11xx_code r.op (by omega)
  all_goals
    rename_i code
    have hop : BitVec.ofNat 4 r.op.toNat = r.op := by rw [BitVec.ofNat_toNat, BitVec.setWidth_eq]
    rw [code] at hop
    rw [← hop]
    rfl

/-- The decoder reads the select code and the ports of its row in the table of R40, and no other (R43). -/
theorem decodeRequest_eq_of_agreesOnUsed {n : Nat} {r q : Request n} (h : r.agreesOnUsed q) :
    decodeRequest r = decodeRequest q := by
  obtain ⟨hop, ha, hb, hi0, hi1, hi2⟩ := h
  unfold decodeRequest
  rw [← hop]
  split
  case h_11 | h_12 | h_13 => rfl -- Reserved codes read no port.
  all_goals
    rename_i code
    simp only [usedPorts, code, Bool.false_eq_true, false_implies, true_implies] at ha hb hi0 hi1 hi2
    simp only [ha, hb, hi0, hi1, hi2]

/-- The encoder gives back a decoded request with its unused fields zero (R43). -/
theorem encodeRequest_decodeRequest {n : Nat} (r : Request n) : encodeRequest n (decodeRequest r) = r.canonical := by
  have hop := opcode_decodeRequest r
  unfold decodeRequest at hop ⊢
  -- Each row writes the ports that it uses with the values just read from them.
  split at hop
  case h_13 =>
    simp only [imp_false] at *
    simp [encodeRequest, hop, Request.canonical, usedPorts_reserved r.op (by omega)]
  all_goals
    rename_i code
    simp [encodeRequest, hop, Request.canonical, usedPorts, code]

/-- Zeroing the unused fields changes no used one (R43). -/
theorem Request.agreesOnUsed_canonical {n : Nat} (r : Request n) : r.agreesOnUsed r.canonical :=
  ⟨rfl, fun h => (if_pos h).symm, fun h => (if_pos h).symm, fun h => (if_pos h).symm, fun h => (if_pos h).symm,
    fun h => (if_pos h).symm⟩

/-- Settles O2: neither the decoder nor F reads an unused field, and the encoder inverts the decoder but for those, which
it writes as zero. -/
theorem unusedFieldsIgnoredAndWrittenZero : Obligations.UnusedFieldsIgnoredAndWrittenZero :=
  fun _ r _ => ⟨fun agree => ⟨decodeRequest_eq_of_agreesOnUsed agree, Machine.blockFunction_eq_of_agreesOnUsed agree⟩,
    encodeRequest_decodeRequest r, r.agreesOnUsed_canonical⟩

end Sys2Proof
end

section
/-! The Index that a port value is read as, and the obligation about index ports (30_encoding.md R44). -/

namespace Sys2Proof

/-- The Index of a port is its unsigned value, less 2^n where the top bit is set (R44). -/
theorem idx_eq {n : Nat} (v : BitVec n) : idx v = (v.toNat : Int) - 2 ^ n * (if v.getLsbD (n - 1) then 1 else 0) := by
  rw [idx, BitVec.toInt_eq_msb_cond, BitVec.msb_eq_getLsbD_last]
  split <;> simp

/-- Every Index read from a port lies in the interval of R44. -/
theorem indexFits_idx {n : Nat} (v : BitVec n) : indexFits n (idx v) = true := by
  rw [indexFits_iff]
  exact ⟨BitVec.le_toInt v, Int.le_sub_one_of_lt BitVec.toInt_lt⟩

/-- Settles O8: the port value that presents an Index of the interval is the one the encoder writes. -/
theorem indexPortsAreTwosComplement : Obligations.IndexPortsAreTwosComplement := by
  intro n (admitted : 8 ≤ n)
  refine ⟨fun v => ⟨idx_eq v, (indexFits_iff n (idx v)).mp (indexFits_idx v)⟩, fun i least greatest => ?_⟩
  exact ⟨indexPort n i, idx_indexPort n (by omega) i ((indexFits_iff n i).mpr ⟨least, greatest⟩)⟩

end Sys2Proof
end

section
/-! The Word that each instruction drives on `y`, and the obligation about the encoding of results (30_encoding.md R46). -/

namespace Sys2Proof.Machine

/-- The Word an instruction drives on `y`: its value of R39, encoded by R46. -/
def resultOf : Instr → Word
  | .buildWord bytes => buildWord bytes
  | .getByte source byteIndex => getByte source byteIndex
  | .getBits source low high => getBits source low high
  | .setBits source low high => setBits source low high
  | .clearBits source low high => clearBits source low high
  | .copyBits source dest srcLow dstLow length => copyBits source dest srcLow dstLow length
  | .setByte source byteIndex => setByte source byteIndex
  | .sign source => zextBool (signBit source)
  | .addWouldOverflow op1 op2 => zextBool (addOverflows op1 op2)
  | .subWouldOverflow op1 op2 => zextBool (subOverflows op1 op2)
  | .reserved101x _ => reservedResult
  | .reserved11xx _ => reservedResult

/-- The meaning of every instruction is to drive `y` with its result, and no more (60_exceptions.md R89). -/
theorem exec_eq (i : Instr) (s : State) : exec i s = .next (s.driveY (resultOf i)) := by
  cases i <;> rfl

/-- An instruction completes with what holds of its result, at every state. -/
theorem completesWith_iff {i : Instr} {s : State} {p : Word → Prop} : CompletesWith i s p ↔ p (resultOf i) := by
  refine ⟨fun ⟨v, hexec, hv⟩ => ?_, fun h => ⟨resultOf i, exec_eq i s, h⟩⟩
  rw [exec_eq] at hexec
  have same : resultOf i = v := congrArg State.y (Host.Outcome.next.inj hexec)
  exact same ▸ hv

/-- A result that is no Word is an encoded verdict (R46). -/
theorem exists_resultOf_eq_zextBool {i : Instr} (h : i.resultType ≠ .word) :
    ∃ verdict, resultOf i = zextBool verdict := by
  cases i with
  | sign source => exact ⟨signBit source, rfl⟩
  | addWouldOverflow op1 op2 => exact ⟨addOverflows op1 op2, rfl⟩
  | subWouldOverflow op1 op2 => exact ⟨subOverflows op1 op2, rfl⟩
  | _ => exact absurd rfl h

/-- False is 0 and true is 1 (R46). -/
theorem zextBool_eq_zero_or_one (r : Bool) : zextBool r = 0 ∨ zextBool r = 1 := by
  cases r with
  | false => exact .inl rfl
  | true => exact .inr rfl

/-- Bit 0 of an encoded verdict is the verdict (R46). -/
theorem getLsbD_zextBool_zero (r : Bool) : (zextBool r).getLsbD 0 = r := by simp

/-- Settles O49, from the result of each instruction: an encoded verdict is its bit 0, and a Word stands as it is. -/
theorem resultsAreEncodedOnY : Obligations.ResultsAreEncodedOnY := by
  refine ⟨fun i s notWord => ?_, fun source op1 op2 s => ?_, fun bytes source dest i j k s => ?_⟩
  · obtain ⟨verdict, hverdict⟩ := exists_resultOf_eq_zextBool notWord
    rw [completesWith_iff, hverdict]
    refine ⟨fun k low _ => ?_, zextBool_eq_zero_or_one verdict⟩
    rw [getLsbD_zextBool, decide_eq_false (by omega), Bool.false_and]
  · simp only [completesWith_iff, resultOf, getLsbD_zextBool_zero, and_self]
  · simp only [completesWith_iff, resultOf, and_self]

end Sys2Proof.Machine
end

section
/-! The bit-field family: what each operation gives on a valid and on an invalid operand, its result bit by bit, and the
obligations about it (40_bitfield.md R53, R56, R57, R58, R60). -/

namespace Sys2Proof.Machine

/-- The value of getBits on a valid range (R53). -/
theorem getBits_of_valid (source : Word) {low high : Int} (h : validRange low high) :
    getBits source low high = zext64 (slice source low.toNat (rangeLength low high)) := if_pos h

/-- Zero-on-invalid (R53). -/
theorem getBits_of_invalid (source : Word) {low high : Int} (h : ¬validRange low high) :
    getBits source low high = 0 := if_neg h

/-- The value of setBits on a valid range (R56). -/
theorem setBits_of_valid (source : Word) {low high : Int} (h : validRange low high) :
    setBits source low high = source ||| fieldMask low high h := dif_pos h

/-- Identity-on-invalid (R56). -/
theorem setBits_of_invalid (source : Word) {low high : Int} (h : ¬validRange low high) :
    setBits source low high = source := dif_neg h

/-- The value of clearBits on a valid range (R57). -/
theorem clearBits_of_valid (source : Word) {low high : Int} (h : validRange low high) :
    clearBits source low high = source &&& ~~~ (fieldMask low high h) := dif_pos h

/-- Identity-on-invalid (R57). -/
theorem clearBits_of_invalid (source : Word) {low high : Int} (h : ¬validRange low high) :
    clearBits source low high = source := dif_neg h

/-- The composition that copyBits is on a valid copy (R60). -/
theorem copyBits_of_valid (source dest : Word) {srcLow dstLow length : Int} (h : validCopy srcLow dstLow length) :
    copyBits source dest srcLow dstLow length = clearBits dest dstLow (dstLow + length - 1) |||
      shl (getBits source srcLow (srcLow + length - 1)) ⟨dstLow.toNat, validCopy_dstLow_lt srcLow dstLow length h⟩ :=
  dif_pos h

/-- Identity-on-invalid (R60). -/
theorem copyBits_of_invalid (source dest : Word) {srcLow dstLow length : Int}
    (h : ¬validCopy srcLow dstLow length) : copyBits source dest srcLow dstLow length = dest := dif_neg h

/-- The two ranges of a valid copy of at least one bit are valid (R59, R60). -/
theorem validRange_of_validCopy {srcLow dstLow length : Int} (h : validCopy srcLow dstLow length)
    (nonempty : 1 ≤ length) :
    validRange srcLow (srcLow + length - 1) ∧ validRange dstLow (dstLow + length - 1) := by
  obtain ⟨hsrc, hdst, -, -, hsrcEnd, hdstEnd⟩ := h
  exact ⟨⟨hsrc, by omega, hsrcEnd⟩, ⟨hdst, by omega, hdstEnd⟩⟩

/-- Bit k of a field: bit low + k of the source, up to the length of the field (R53). -/
theorem getLsbD_getBits (source : Word) {low high : Int} (h : validRange low high) (k : Nat) :
    (getBits source low high).getLsbD k = (decide ((k : Int) ≤ high - low) && source.getLsbD (low.toNat + k)) := by
  have ⟨_, ordered, _⟩ := h
  rw [getBits_of_valid source h, getLsbD_zext64, getLsbD_slice, ← Bool.and_assoc]
  have bits : (rangeLength low high : Int) = high - low + 1 := rangeLength_cast low high ordered
  have within : k < 64 ∧ k < rangeLength low high ↔ (k : Int) ≤ high - low := by omega
  rw [← Bool.decide_and, decide_eq_decide.mpr within]

/-- Bit k after a range is set (R56). -/
theorem getLsbD_setBits (source : Word) {low high : Int} (h : validRange low high) (k : Nat) :
    (setBits source low high).getLsbD k = if low ≤ k ∧ (k : Int) ≤ high then true else source.getLsbD k := by
  rw [setBits_of_valid source h, BitVec.getLsbD_or, getLsbD_fieldMask, ← Bool.decide_and]
  split
  case isTrue inside => rw [decide_eq_true inside, Bool.or_true]
  case isFalse outside => rw [decide_eq_false outside, Bool.or_false]

/-- Bit k after a range is cleared (R57). -/
theorem getLsbD_clearBits (source : Word) {low high : Int} (h : validRange low high) (k : Nat) (hk : k < 64) :
    (clearBits source low high).getLsbD k = if low ≤ k ∧ (k : Int) ≤ high then false else source.getLsbD k := by
  rw [clearBits_of_valid source h, BitVec.getLsbD_and, BitVec.getLsbD_not, getLsbD_fieldMask, ← Bool.decide_and,
    decide_eq_true hk, Bool.true_and]
  split
  case isTrue inside => rw [decide_eq_true inside, Bool.not_true, Bool.and_false]
  case isFalse outside => rw [decide_eq_false outside, Bool.not_false, Bool.and_true]

/-- Bit k of the source field moved up to its place in the destination (R60). -/
theorem getLsbD_shl_getBits (source : Word) {srcLow dstLow length : Int} (h : validCopy srcLow dstLow length)
    (nonempty : 1 ≤ length) (k : Nat) (hk : k < 64) :
    (shl (getBits source srcLow (srcLow + length - 1))
      ⟨dstLow.toNat, validCopy_dstLow_lt srcLow dstLow length h⟩).getLsbD k =
      if dstLow ≤ k ∧ (k : Int) ≤ dstLow + length - 1 then source.getLsbD ((k : Int) - dstLow + srcLow).toNat
      else false := by
  obtain ⟨src, dst⟩ := validRange_of_validCopy h nonempty
  rw [getLsbD_shl, getLsbD_getBits source src, decide_eq_true hk, Bool.true_and]
  split
  case isTrue inside =>
    have above : ¬k < dstLow.toNat := by omega
    have within : ((k - dstLow.toNat : Nat) : Int) ≤ srcLow + length - 1 - srcLow := by omega
    have place : srcLow.toNat + (k - dstLow.toNat) = ((k : Int) - dstLow + srcLow).toNat := by omega
    simp only [above, within, place, decide_true, decide_false, Bool.not_false, Bool.true_and]
  case isFalse outside =>
    by_cases below : k < dstLow.toNat
    · simp only [below, decide_true, Bool.not_true, Bool.false_and]
    · have beyond : ¬((k - dstLow.toNat : Nat) : Int) ≤ srcLow + length - 1 - srcLow := by omega
      simp only [beyond, decide_false, Bool.false_and, Bool.and_false]

/-- Bit k after a copy of at least one bit: the cleared field takes the moved one, and outside it the moved field has no
bit (R60). -/
theorem getLsbD_copyBits (source dest : Word) {srcLow dstLow length : Int} (h : validCopy srcLow dstLow length)
    (nonempty : 1 ≤ length) (k : Nat) (hk : k < 64) :
    (copyBits source dest srcLow dstLow length).getLsbD k =
      if dstLow ≤ k ∧ (k : Int) ≤ dstLow + length - 1 then source.getLsbD ((k : Int) - dstLow + srcLow).toNat
      else dest.getLsbD k := by
  obtain ⟨-, dst⟩ := validRange_of_validCopy h nonempty
  rw [copyBits_of_valid source dest h, BitVec.getLsbD_or, getLsbD_clearBits dest dst k hk,
    getLsbD_shl_getBits source h nonempty k hk]
  split
  · exact Bool.false_or _
  · exact Bool.or_false _

/-- Setting the whole word gives all ones (R58). -/
theorem setBits_whole (source : Word) : setBits source 0 63 = BitVec.allOnes 64 := by
  refine BitVec.eq_of_getLsbD_eq fun k hk => ?_
  rw [getLsbD_setBits source (by decide), if_pos (by omega), BitVec.getLsbD_allOnes, decide_eq_true hk]

/-- Clearing the whole word gives zero (R58). -/
theorem clearBits_whole (source : Word) : clearBits source 0 63 = 0 := by
  refine BitVec.eq_of_getLsbD_eq fun k hk => ?_
  rw [getLsbD_clearBits source (by decide) k hk, if_pos (by omega), BitVec.ofNat_eq_ofNat, BitVec.getLsbD_zero]

/-- Settles O20, by the bits of a field and by Zero-on-invalid. -/
theorem getBitsResult : Obligations.GetBitsResult := by
  refine ⟨fun n r hop => by simp [decodeRequest, hop], fun source low high s => completesWith_iff.mpr ?_⟩
  exact ⟨fun valid k _ => getLsbD_getBits source valid k, getBits_of_invalid source⟩

/-- Settles O22, by the bits after a range is set and by Identity-on-invalid. -/
theorem setBitsResult : Obligations.SetBitsResult := by
  refine ⟨fun n r hop => by simp [decodeRequest, hop], fun source low high s => completesWith_iff.mpr ?_⟩
  exact ⟨fun valid k _ => getLsbD_setBits source valid k, setBits_of_invalid source⟩

/-- Settles O23, by the bits after a range is cleared and by Identity-on-invalid. -/
theorem clearBitsResult : Obligations.ClearBitsResult := by
  refine ⟨fun n r hop => by simp [decodeRequest, hop], fun source low high s => completesWith_iff.mpr ?_⟩
  exact ⟨fun valid k hk => getLsbD_clearBits source valid k hk, clearBits_of_invalid source⟩

/-- Settles O24: a valid range of 64 bits is 0..63, and there every bit is set or cleared. -/
theorem wholeWordSetAndClear : Obligations.WholeWordSetAndClear := by
  intro source low high s valid whole
  obtain ⟨rfl, rfl⟩ : low = 0 ∧ high = 63 := by omega
  exact ⟨rfl, rfl, completesWith_iff.mpr (setBits_whole source), completesWith_iff.mpr (clearBits_whole source)⟩

/-- Settles O26, by the bits after a copy, the composition that copyBits is, and Identity-on-invalid. -/
theorem copyBitsResult : Obligations.CopyBitsResult := by
  refine ⟨fun n r hop => by simp [decodeRequest, hop],
    fun source dest srcLow dstLow length s => completesWith_iff.mpr ⟨fun valid => ?_, copyBits_of_invalid source dest⟩⟩
  exact ⟨getLsbD_copyBits source dest valid, copyBits_of_valid source dest valid⟩

end Sys2Proof.Machine
end

section
/-! The byte-lane family: which Bytes the lanes of a built Word hold, what getByte and setByte give on a valid and on an
invalid index, and the obligations about them (41_bytelane.md R65, R66, R68). -/

namespace Sys2Proof

/-- The Byte carried for index k is lane k of the port (30_encoding.md R42). -/
@[simp] theorem at_carriedBytes (w : Word) (k : Fin 8) : (carriedBytes w).at k = lane w k := by
  fin_cases k <;> rfl

/-- A Word is determined by its lanes: bit k stands in lane k / 8 (20_memory.md R30, R31). -/
theorem eq_of_lane_eq {v w : Word} (h : ∀ k : Fin 8, lane v k = lane w k) : v = w := by
  refine BitVec.eq_of_getLsbD_eq fun k hk => ?_
  have place : 8 * (k / 8) + k % 8 = k := Nat.div_add_mod k 8
  have inLane : k % 8 < 8 := Nat.mod_lt k (by decide)
  have sameBit : (lane v ⟨k / 8, by omega⟩).getLsbD (k % 8) = (lane w ⟨k / 8, by omega⟩).getLsbD (k % 8) := by rw [h]
  simpa only [getLsbD_lane, place, inLane, decide_true, Bool.true_and] using sameBit

end Sys2Proof

namespace Sys2Proof.Machine

/-- A concatenation weighs its upper part by the width of its lower one (00_scope.md R9). -/
theorem toNat_append_eq_add {m n : Nat} (x : BitVec m) (y : BitVec n) :
    (x ++ y).toNat = 2 ^ n * x.toNat + y.toNat := by
  rw [BitVec.toNat_append, ← Nat.shiftLeft_add_eq_or_of_lt y.isLt, Nat.shiftLeft_eq, Nat.mul_comm]

/-- The value of a built Word is the sum of its Bytes, each weighed by its lane (R65). -/
theorem toNat_buildWord (bytes : ByteSeq) :
    (buildWord bytes).toNat = (bytes.at 0).toNat + 2 ^ 8 * (bytes.at 1).toNat + 2 ^ 16 * (bytes.at 2).toNat +
      2 ^ 24 * (bytes.at 3).toNat + 2 ^ 32 * (bytes.at 4).toNat + 2 ^ 40 * (bytes.at 5).toNat +
      2 ^ 48 * (bytes.at 6).toNat + 2 ^ 56 * (bytes.at 7).toNat := by
  simp only [buildWord, toNat_append_eq_add, ByteSeq.at]
  omega

/-- Lane k of a built Word is its Byte k: the Bytes below it weigh less than the lane, and those above it are whole
multiples of what follows it (R65). -/
@[simp] theorem lane_buildWord (bytes : ByteSeq) (k : Fin 8) : lane (buildWord bytes) k = bytes.at k := by
  refine BitVec.eq_of_toNat_eq ?_
  rw [toNat_lane, toNat_buildWord]
  fin_cases k
  all_goals
    simp only [ByteSeq.at]
    omega

/-- Building a Word from its own lanes gives it back (R42, R65). -/
@[simp] theorem buildWord_carriedBytes (w : Word) : buildWord (carriedBytes w) = w :=
  eq_of_lane_eq fun k => by rw [lane_buildWord, at_carriedBytes]

/-- Bit j of Byte k is bit 8k+j of the built Word (R65). -/
theorem getLsbD_buildWord (bytes : ByteSeq) (k : Fin 8) (j : Nat) (hj : j < 8) :
    (buildWord bytes).getLsbD (8 * k.val + j) = (bytes.at k).getLsbD j := by
  rw [← lane_buildWord, getLsbD_lane, decide_eq_true hj, Bool.true_and]

/-- The value of getByte on a valid index (R66). -/
theorem getByte_of_valid (source : Word) {byteIndex : Int} (h : validByte byteIndex) :
    getByte source byteIndex = zext64 (slice source (8 * byteIndex).toNat 8) := if_pos h

/-- Zero-on-invalid (R66). -/
theorem getByte_of_invalid (source : Word) {byteIndex : Int} (h : ¬validByte byteIndex) :
    getByte source byteIndex = 0 := if_neg h

/-- Bit k of a lane read: bit 8i+k of the source for the eight bits of the lane, 0 above them (R66). -/
theorem getLsbD_getByte (source : Word) {byteIndex : Int} (h : validByte byteIndex) (k : Nat) (hk : k < 64) :
    (getByte source byteIndex).getLsbD k = (decide (k < 8) && source.getLsbD (8 * byteIndex.toNat + k)) := by
  have start : (8 * byteIndex).toNat = 8 * byteIndex.toNat := by omega
  rw [getByte_of_valid source h, getLsbD_zext64, getLsbD_slice, decide_eq_true hk, Bool.true_and, start]

/-- The value of setByte on a valid index (R68). -/
theorem setByte_of_valid (source : Word) {byteIndex : Int} (h : validByte byteIndex) :
    setByte source byteIndex = setBits source (8 * byteIndex) (8 * byteIndex + 7) := if_pos h

/-- Identity-on-invalid (R68). -/
theorem setByte_of_invalid (source : Word) {byteIndex : Int} (h : ¬validByte byteIndex) :
    setByte source byteIndex = source := if_neg h

/-- A byte index is valid exactly when the range of its lane is (R52, R64). -/
theorem validByte_iff_validRange (byteIndex : Int) :
    validByte byteIndex ↔ validRange (8 * byteIndex) (8 * byteIndex + 7) := by
  omega

/-- setByte is setBits on the range of the lane for every index: both leave the source where it is invalid (R68). -/
theorem setByte_eq_setBits (source : Word) (byteIndex : Int) :
    setByte source byteIndex = setBits source (8 * byteIndex) (8 * byteIndex + 7) := by
  by_cases valid : validByte byteIndex
  · exact setByte_of_valid source valid
  · rw [setByte_of_invalid source valid, setBits_of_invalid source (mt (validByte_iff_validRange byteIndex).mpr valid)]

/-- Settles O32: the lanes of the built Word are the Bytes, and its value is their weighed sum. -/
theorem buildWordResult : Obligations.BuildWordResult := by
  refine ⟨fun n r hop => ⟨carriedBytes r.a, by simp [decodeRequest, hop], ?_⟩, fun bytes s => completesWith_iff.mpr ?_⟩
  · exact ⟨at_carriedBytes r.a, buildWord_carriedBytes r.a⟩
  · exact ⟨getLsbD_buildWord bytes, toNat_buildWord bytes⟩

/-- Settles O33, by the bits of a lane read and by Zero-on-invalid. -/
theorem getByteResult : Obligations.GetByteResult := by
  refine ⟨fun n r hop => by simp [decodeRequest, hop], fun source byteIndex s => completesWith_iff.mpr ?_⟩
  exact ⟨getLsbD_getByte source, getByte_of_invalid source⟩

/-- Settles O35: setByte is setBits on the lane, whose range is valid where the index is, and Identity-on-invalid. -/
theorem setByteResult : Obligations.SetByteResult := by
  refine ⟨fun n r hop => by simp [decodeRequest, hop], fun source byteIndex s => completesWith_iff.mpr ?_⟩
  refine ⟨fun valid k _ => ?_, setByte_of_invalid source, setByte_eq_setBits source byteIndex⟩
  rw [resultOf, setByte_eq_setBits]
  exact getLsbD_setBits source ((validByte_iff_validRange byteIndex).mp valid) k

end Sys2Proof.Machine
end

section
/-! The sign and overflow family: when each verdict is 1, the forms of the addition verdict, the order of the subtraction,
and the obligations about them (42_sign_overflow.md R71, R72, R73, R75, R76). -/

namespace Sys2Proof.Machine

/-- The encoding of a verdict that says when a condition holds (30_encoding.md R46). -/
theorem zextBool_eq_ite {verdict : Bool} {p : Prop} [Decidable p] (h : verdict = true ↔ p) :
    zextBool verdict = if p then 1 else 0 := by
  split
  case isTrue holds => rw [h.mpr holds]; rfl
  case isFalse fails => rw [Bool.eq_false_iff.mpr (mt h.mp fails)]; rfl

/-- A verdict shows as 1 exactly when it is true (30_encoding.md R46). -/
theorem zextBool_eq_one_iff (verdict : Bool) : zextBool verdict = 1 ↔ verdict = true := by
  rw [zextBool_eq_ite Iff.rfl]
  split
  case isTrue holds => exact iff_of_true rfl holds
  case isFalse fails => exact iff_of_false (by decide) fails

/-- An addition overflows exactly when its operands have one sign and its sum has the other (R72). -/
theorem addOverflows_iff (op1 op2 : Word) :
    addOverflows op1 op2 = true ↔ signBit op1 = signBit op2 ∧ signBit (op1 + op2) ≠ signBit op1 := by
  simp only [addOverflows, Bool.and_eq_true, beq_iff_eq, bne_iff_ne]

/-- The cases form: two non-negative operands with a negative sum, or two negative ones with a non-negative sum (R73). -/
theorem addOverflows_eq_cases (op1 op2 : Word) :
    addOverflows op1 op2 = ((!signBit op1 && !signBit op2 && signBit (op1 + op2)) ||
      (signBit op1 && signBit op2 && !signBit (op1 + op2))) := by
  unfold addOverflows
  cases signBit op1 with
  | false => cases signBit op2 <;> simp
  | true => cases signBit op2 <;> simp

/-- The NOT form, restricted to operands of one sign: not all three signs are the same (R73). -/
theorem addOverflows_eq_not (op1 op2 : Word) :
    addOverflows op1 op2 = ((signBit op1 == signBit op2) &&
      !((!signBit op1 && !signBit op2 && !signBit (op1 + op2)) ||
        (signBit op1 && signBit op2 && signBit (op1 + op2)))) := by
  unfold addOverflows
  cases signBit op1 with
  | false => cases signBit op2 <;> simp
  | true => cases signBit op2 <;> simp

/-- The verdict on a sum does not depend on the order of its operands (R76). -/
theorem addOverflows_comm (op1 op2 : Word) : addOverflows op1 op2 = addOverflows op2 op1 := by
  rw [addOverflows_eq_cases, addOverflows_eq_cases, BitVec.add_comm op2, Bool.and_comm (!signBit op2),
    Bool.and_comm (signBit op2)]

/-- A subtraction overflows exactly in the two sign cases on `op2 - op1` (R75). -/
theorem subOverflows_iff_cases (op1 op2 : Word) :
    subOverflows op1 op2 = true ↔
      (signBit op1 = false ∧ signBit op2 = true ∧ signBit (op2 - op1) = false) ∨
        (signBit op1 = true ∧ signBit op2 = false ∧ signBit (op2 - op1) = true) := by
  simp only [subOverflows, Bool.or_eq_true, Bool.and_eq_true, Bool.not_eq_true', and_assoc]

/-- The two sign cases in short: the operands' signs differ, and the result's sign differs from that of the minuend
(R75). -/
theorem subOverflows_iff_signs_differ (op1 op2 : Word) :
    subOverflows op1 op2 = true ↔ signBit op1 ≠ signBit op2 ∧ signBit (op2 - op1) ≠ signBit op2 := by
  rw [subOverflows_iff_cases]
  cases signBit op1 with
  | false => cases signBit op2 <;> simp
  | true => cases signBit op2 <;> simp

/-- Select code 9 takes its first operand from `a` and its second from `b` (30_encoding.md R40). -/
theorem decodeRequest_of_op_eq_nine {n : Nat} (r : Request n) (hop : r.op = 9#4) :
    decodeRequest r = .subWouldOverflow r.a r.b := by
  simp [decodeRequest, hop]

/-- Settles O40: the encoded verdict of the sign rule. -/
theorem addOverflowSignRule : Obligations.AddOverflowSignRule :=
  ⟨fun n r hop => by simp [decodeRequest, hop],
    fun op1 op2 _ => completesWith_iff.mpr (zextBool_eq_ite (addOverflows_iff op1 op2))⟩

/-- Settles O43: the encoded verdict, by its two sign cases and by their short form. -/
theorem subOverflowSignRule : Obligations.SubOverflowSignRule :=
  ⟨fun _ => decodeRequest_of_op_eq_nine, fun op1 op2 _ => completesWith_iff.mpr
    ⟨zextBool_eq_ite (subOverflows_iff_cases op1 op2), zextBool_eq_ite (subOverflows_iff_signs_differ op1 op2)⟩⟩

/-- Settles O39: the encoded sign bit, which says whether the value is negative. -/
theorem signResult : Obligations.SignResult :=
  ⟨fun n r hop => by simp [decodeRequest, hop], fun source _ => completesWith_iff.mpr
    ⟨zextBool_eq_ite Iff.rfl, (zextBool_eq_one_iff (signBit source)).trans (signBit_iff source)⟩⟩

/-- Settles O42: the first form is the definition, the other two follow from it, and 1 and -1 have different signs, where
the unrestricted NOT form is true. -/
theorem addOverflowForms : Obligations.AddOverflowForms :=
  ⟨fun op1 op2 => ⟨rfl, addOverflows_eq_cases op1 op2, addOverflows_eq_not op1 op2⟩, by decide⟩

/-- Settles O45: 0 - MIN leaves the Word's range and MIN - 0 does not, while a sum has one verdict in either order. -/
theorem subtrahendIsTheFirstOperand : Obligations.SubtrahendIsTheFirstOperand := by
  refine ⟨fun n r hop => ⟨decodeRequest_of_op_eq_nine r hop, by simp [blockFunction, hop]⟩, fun s => ?_, fun s => ?_,
    addOverflows_comm⟩
  · have overflows : subOverflows 0x8000000000000000 0 = true := by decide
    exact completesWith_iff.mpr (congrArg zextBool overflows)
  · have fits : subOverflows 0 0x8000000000000000 = false := by decide
    exact completesWith_iff.mpr (congrArg zextBool fits)

end Sys2Proof.Machine
end

section
/-! Runs of any length: a run only settles the output again and again, so it never stops (60_exceptions.md R79). -/

namespace Sys2Proof.Machine

/-- A step has a next state, whatever the ports carry (R79). -/
theorem State.safe (s : State) : Safe s := ⟨s.settle, step_eq_settle s⟩

/-- A run whose first step has a next state goes on from there. -/
theorem run_succ_of_step {M : Host.Core} {s t : M.State} (h : M.step s = .next t) (k : Nat) :
    M.run (k + 1) s = M.run k t := by
  rw [Host.Core.run, h]

/-- A run of `k` steps ends where settling `k` times ends: it has one outcome, a state (R79). -/
theorem run_eq_iterate_settle (k : Nat) (s : State) : core.run k s = .next (State.settle^[k] s) := by
  induction k generalizing s with
  | zero => rfl
  | succ k ih => exact (run_succ_of_step (step_eq_settle s) k).trans (ih s.settle)

/-- Settles O11: no constructor makes a fault, and the settled state follows at every step of a run. -/
theorem noStepEverStops : Obligations.NoStepEverStops :=
  ⟨⟨fun cause => nomatch cause⟩, fun s => ⟨s.safe, fun k => ⟨State.settle^[k] s, run_eq_iterate_settle k s⟩⟩⟩

end Sys2Proof.Machine
end

section
/-! The layout of a packed request, and the obligation about it (30_encoding.md R41). -/

namespace Sys2Proof

open Sys2Proof.Machine (toNat_append_eq_add)

/-- The packed number is the sum of its fields, each weighed by the bit position it begins at (R41). -/
theorem toNat_packRequest {n : Nat} (r : Request n) :
    (packRequest r).toNat = r.op.toNat + 2 ^ 4 * r.a.toNat + 2 ^ 68 * r.b.toNat + 2 ^ 132 * r.i0.toNat +
      2 ^ (132 + n) * r.i1.toNat + 2 ^ (132 + 2 * n) * r.i2.toNat := by
  simp only [packRequest, BitVec.toNat_cast, toNat_append_eq_add, two_mul, pow_add]
  ring

/-- Each field of a packed request is read where the packing puts it (R41). -/
@[simp] theorem unpackRequest_packRequest {n : Nat} (r : Request n) : unpackRequest n (packRequest r) = r := by
  have belowI1 : 132 + n - (n + 132) = 0 := by omega
  have belowI2 : 132 + 2 * n - (n + (n + 132)) = 0 := by omega
  -- In each field's slice the higher fields drop out at the top and the lower ones at the bottom.
  simp (disch := omega) only [unpackRequest, packRequest, BitVec.extractLsb'_cast,
    BitVec.extractLsb'_append_eq_of_add_le, BitVec.extractLsb'_append_eq_of_le]
  simp only [Nat.reduceAdd, Nat.reduceSub, belowI1, belowI2, BitVec.extractLsb'_eq_self]

/-- The fields of a number, put side by side again, are the number: each begins where the one below it ends (R41). -/
@[simp] theorem packRequest_unpackRequest (n : Nat) (v : BitVec (requestWidth n)) :
    packRequest (unpackRequest n v) = v := by
  simp (disch := omega) only [packRequest, unpackRequest, BitVec.extractLsb'_append_extractLsb'_eq_extractLsb']
  refine BitVec.eq_of_getLsbD_eq fun k (hk : k < 132 + 3 * n) => ?_
  have inside : k < n + (n + (n + (64 + (64 + 4)))) := by omega
  rw [BitVec.getLsbD_cast, BitVec.getLsbD_extractLsb', decide_eq_true inside, Bool.true_and, Nat.zero_add]

/-- Settles O5: the packed number is the weighed sum of its fields, and packing and unpacking invert each other. -/
theorem packedRequestLayout : Obligations.PackedRequestLayout :=
  fun n r v => ⟨toNat_packRequest r, unpackRequest_packRequest r, packRequest_unpackRequest n v⟩

end Sys2Proof
end

section
/-! The decoder inverts the encoder on the instructions that the ports can carry, and the obligations about that
(30_encoding.md R40, R42, R44, R50). -/

namespace Sys2Proof

open Sys2Proof.Machine

/-- The Bytes carried for the lanes of a built Word are the Bytes it was built from (R42, R65). -/
@[simp] theorem carriedBytes_buildWord (bytes : ByteSeq) : carriedBytes (buildWord bytes) = bytes := by
  simp only [carriedBytes, lane_buildWord, ByteSeq.at]

/-- The Word that carries eight Bytes is the one built from them (R42, R65). -/
theorem carryBytes_eq_buildWord (bytes : ByteSeq) : carryBytes bytes = buildWord bytes := by
  rw [← carryBytes_carriedBytes (buildWord bytes), carriedBytes_buildWord]

/-- Codes 10 and 11 select the first reserved row (R47). -/
theorem decodeRequest_of_reserved101x {n : Nat} (r : Request n) (hop : r.op.toNat = 10 ∨ r.op.toNat = 11) :
    decodeRequest r = .reserved101x (r.op.extractLsb' 0 1) := by
  obtain code | code := hop
  all_goals simp only [decodeRequest, code]

/-- Codes 12 to 15 select the second reserved row (R47). -/
theorem decodeRequest_of_reserved11xx {n : Nat} (r : Request n) (hop : 12 ≤ r.op.toNat) :
    decodeRequest r = .reserved11xx (r.op.extractLsb' 0 2) := by
  unfold decodeRequest
  split
  case h_13 => rfl
  all_goals omega

/-- The select codes of the first reserved row (R47). -/
theorem toNat_opcode_reserved101x (x : BitVec 1) : (0b101#3 ++ x).toNat = 10 ∨ (0b101#3 ++ x).toNat = 11 := by
  revert x
  decide

/-- The select codes of the second reserved row (R47). -/
theorem toNat_opcode_reserved11xx (xx : BitVec 2) : 12 ≤ (0b11#2 ++ xx).toNat := by
  revert xx
  decide

/-- The decoder gives back an instruction whose every Index a port of at least one bit represents (R44, R50). -/
theorem decodeRequest_encodeRequest {n : Nat} (hn : 0 < n) {i : Instr} (fits : i.wellFormed n = true) :
    decodeRequest (encodeRequest n i) = i := by
  have index : ∀ j : Int, indexFits n j = true → idx (indexPort n j) = j := idx_indexPort n hn
  cases i with
  | buildWord bytes => simp [encodeRequest, decodeRequest, Instr.opcode, carryBytes_eq_buildWord]
  | reserved101x x =>
    rw [decodeRequest_of_reserved101x _ (toNat_opcode_reserved101x x)]
    exact congrArg Instr.reserved101x BitVec.extractLsb'_append_eq_right
  | reserved11xx xx =>
    rw [decodeRequest_of_reserved11xx _ (toNat_opcode_reserved11xx xx)]
    exact congrArg Instr.reserved11xx BitVec.extractLsb'_append_eq_right
  | _ =>
    simp only [Instr.wellFormed, Bool.and_eq_true] at fits
    simp [encodeRequest, decodeRequest, Instr.opcode, index, fits]

/-- The decoder of numbers reads a packed request as the decoder of port values reads its fields (R41). -/
theorem decodeNumber_packRequest {n : Nat} (r : Request n) :
    decodeNumber n (packRequest r).toNat = .ok (decodeRequest r) := by
  rw [decodeNumber, if_pos (packRequest r).isLt, BitVec.ofNat_toNat, BitVec.setWidth_eq, unpackRequest_packRequest]

/-- Settles O1: the decoder inverts the encoder on port values, and so it does on the packed number. -/
theorem decodeOfEncodeIsIdentity : Obligations.DecodeOfEncodeIsIdentity := by
  intro n (admitted : 8 ≤ n) i fits
  have inverse : decodeRequest (encodeRequest n i) = i := decodeRequest_encodeRequest (by omega) fits
  exact ⟨inverse, by rw [encode, decodeNumber_packRequest, inverse]⟩

end Sys2Proof
end

section
/-! Settling: what it leaves as it was, where it changes nothing, and the obligations about one step (10_state.md R18, R19;
70_reset_and_hazards.md R91, R92). -/

namespace Sys2Proof.Machine

/-- Settling leaves the index width and what the requester drives as they were (R21). -/
theorem State.sameInputs_settle (s : State) : s.sameInputs s.settle := ⟨_, _, s.settle_eq⟩

/-- A settled block with every port driven is a fixed point: no free value is drawn, and `y` is F already (R18). -/
theorem State.settled.settle_eq_self {s : State} (hs : s.settled) (driven : s.allDriven = true) : s.settle = s := by
  have sampled : s.sampled = s := s.sampled_of_allDriven driven
  rw [State.settle, sampled, ← hs]
  rfl

/-- Settles O13: the next state of a step is the settled one. -/
theorem everyStepKeepsTheOutputSettled : Obligations.EveryStepKeepsTheOutputSettled := by
  intro s t hs hstep
  obtain rfl : t = s.settle := eq_settle_of_step hstep
  exact ⟨s.settled_settle, s.sameInputs_settle, hs.settle_eq_self⟩

/-- Settling a block that carries a request drives `y` and no more: no port is left to free values. -/
theorem State.carries.settle_eq {n : Nat} {s : State} {r : Request n} (h : s.carries r) :
    s.settle = { s with y := blockFunction r } := by
  obtain ⟨y, samples, rfl⟩ := h
  rfl

/-- Settles O12: a step is the output settling, which drives `y` alone where the ports carry a request. -/
theorem stepDrivesTheBlockFunction : Obligations.StepDrivesTheBlockFunction :=
  ⟨fun _ s _ hr => by rw [step_eq_settle, hr.settle_eq], step_eq_settle⟩

/-- The request on the ports agrees with the one whose used ports are driven, whatever undriven ports carry (R92). -/
theorem State.drivesUsed.agreesOnUsed {s : State} {r : Request s.idxw} (h : s.drivesUsed r) :
    r.agreesOnUsed s.request := by
  obtain ⟨hop, ha, hb, hi0, hi1, hi2⟩ := h
  simp only [Request.agreesOnUsed, State.request]
  refine ⟨by rw [hop, Port.value_driven], fun used => ?_, fun used => ?_, fun used => ?_, fun used => ?_,
    fun used => ?_⟩
  · rw [ha used, Port.value_driven]
  · rw [hb used, Port.value_driven]
  · rw [hi0 used, Port.value_driven]
  · rw [hi1 used, Port.value_driven]
  · rw [hi2 used, Port.value_driven]

/-- A sample leaves driven ports driven (log 3). -/
theorem State.drivesUsed.sampled {s : State} {r : Request s.idxw} (h : s.drivesUsed r) : s.sampled.drivesUsed r := h

/-- Settles O4: F reads used ports alone, and those carry the values of the request at every sample. -/
theorem undrivenUnusedPortsHaveNoEffect : Obligations.UndrivenUnusedPortsHaveNoEffect := by
  intro s r h
  have before : blockFunction r = blockFunction s.request := blockFunction_eq_of_agreesOnUsed h.agreesOnUsed
  have after : blockFunction r = blockFunction s.sampled.request :=
    blockFunction_eq_of_agreesOnUsed h.sampled.agreesOnUsed
  exact ⟨⟨s.settle, step_eq_settle s, after.symm, s.sameInputs_settle⟩, fun hs => hs.trans before.symm⟩

/-- A port may carry the value it is read as, driven or free (R92). -/
theorem Port.mayCarry_value {w : Nat} (p : Port w) (free : BitVec w) : p.mayCarry (p.value free) := by
  cases p with
  | undriven => exact .inl rfl
  | driven v => exact .inr rfl

/-- The ports may carry the request that is read from them (R92). -/
theorem State.mayCarry_request (s : State) : s.mayCarry s.request :=
  ⟨s.op.mayCarry_value _, s.a.mayCarry_value _, s.b.mayCarry_value _, s.i0.mayCarry_value _, s.i1.mayCarry_value _,
    s.i2.mayCarry_value _⟩

/-- Settles O16: a step shows F of the request of its sample, and a settled block F of the one it is read as. -/
theorem undrivenPortsShowSomeRequest : Obligations.UndrivenPortsShowSomeRequest := fun s =>
  ⟨⟨s.sampled.request, s.settle, s.sampled.mayCarry_request, step_eq_settle s, rfl, s.sameInputs_settle⟩,
    fun hs => ⟨s.request, s.mayCarry_request, hs⟩⟩

/-- Settles O15: a presented request shows F of it, and a step keeps that, after power-up as in every state. -/
theorem firstRequestBehavesAsEveryOther : Obligations.FirstRequestBehavesAsEveryOther := by
  intro s r
  have fresh : ((State.resetAt s.idxw).present r).y = blockFunction r := State.present_y (State.resetAt s.idxw) r
  have shown : (s.present r).y = blockFunction r := s.present_y r
  exact ⟨fresh, shown, _, _, step_present (State.resetAt s.idxw) r, step_present s r, fresh, shown⟩

/-- Settles O17: presenting settles the output, so neither a step nor a second presentation finds anything to change. -/
theorem requestsAreIdempotent : Obligations.RequestsAreIdempotent := fun s r =>
  ⟨s.present_y r, step_present s r, s.present_present r r⟩

/-- Settles O14: both parts are how power-up is defined. -/
theorem powerUpIsSettled : Obligations.PowerUpIsSettled :=
  ⟨State.reset_eq, fun n => ⟨State.resetAt_idxw n, State.settled_resetAt n, State.resetAt_op n, State.resetAt_a n,
    State.resetAt_b n, State.resetAt_i0 n, State.resetAt_i1 n, State.resetAt_i2 n⟩⟩

end Sys2Proof.Machine
end

section
/-! The requester's operations: each drives its own port, and together they present a request (10_state.md R21,
70_reset_and_hazards.md R95). -/

namespace Sys2Proof.Machine

/-- A presented request is carried by the block (R38). -/
theorem State.carries_present (s : State) (r : Request s.idxw) : (s.present r).carries r := ⟨_, _, s.present_eq r⟩

/-- Settles O54: every operation is one change of the ports, after which the output settles. -/
theorem requesterOperationsKeepTheOutputSettled : Obligations.RequesterOperationsKeepTheOutputSettled := fun s =>
  ⟨s.settled_drive, fun _ => State.sameInputs_settle _, fun _ => State.sameInputs_settle _,
    fun _ => State.sameInputs_settle _, fun _ => State.sameInputs_settle _, fun _ => State.sameInputs_settle _,
    fun _ => State.sameInputs_settle _, fun r => ⟨s.carries_present r, s.present_idxw r⟩⟩

/-- Settles O56: the six operations leave every port at its value of the request, and the last one has settled the
output. -/
theorem portByPortIsTheSameRequest : Obligations.PortByPortIsTheSameRequest := by
  -- On a state taken apart, the index ports of each intermediate block have the width `n` by computation.
  rintro ⟨n, op, a, b, i0, i1, i2, y, samples⟩ r t
  have carried : t.carries r := ⟨_, _, rfl⟩
  have shown : t.y = blockFunction r := State.settled.y_of_carries (State.settled_settle _) carried
  exact ⟨carried, shown, State.carries_present _ r, shown.symm⟩

end Sys2Proof.Machine
end

section
/-! Two index widths: what is decoded and answered depends on the integers that the index ports carry, and not on their
width (00_scope.md R7, 30_encoding.md R44). -/

namespace Sys2Proof.Machine

/-- Settles O19: neither F nor the decoder reads more of an index port than its integer. -/
theorem indexWidthsAgree : Obligations.IndexWidthsAgree := by
  intro n m r q _ _ hop ha hb hi0 hi1 hi2
  constructor
  · simp only [blockFunction, hop, ha, hb, hi0, hi1, hi2]
  · simp only [decodeRequest, hop, ha, hb, hi0, hi1, hi2]

/-- A block that carries a request has its index width (R7). -/
theorem State.carries.idxw_eq {n : Nat} {s : State} {r : Request n} (h : s.carries r) : s.idxw = n := by
  obtain ⟨y, samples, rfl⟩ := h
  rfl

/-- Settles O57: both blocks show F of their requests, after a step and, being settled, before it. -/
theorem machinesOfDifferentWidthsAgree : Obligations.MachinesOfDifferentWidthsAgree := by
  intro n m s s' r q hn hm hr hq hop ha hb hi0 hi1 hi2
  obtain ⟨same, -⟩ := indexWidthsAgree n m r q hn hm hop ha hb hi0 hi1 hi2
  refine ⟨⟨s.settle, s'.settle, step_eq_settle s, step_eq_settle s', ?_, hr.idxw_eq, hq.idxw_eq⟩, fun hs hs' => ?_⟩
  · rw [hr.settle_y, hq.settle_y, same]
  · rw [hs.y_of_carries hr, hs'.y_of_carries hq, same]

end Sys2Proof.Machine
end

section
/-! Decoding as the step does it: the decoded instruction, its row of the opcode table and its reserved codes, and the
obligations about them (30_encoding.md R39, R41, R44, R47, R48). -/

namespace Sys2Proof

open Sys2Proof.Machine

/-- Every Index that the decoder reads is one the port represents (R44). -/
theorem wellFormed_decodeRequest {n : Nat} (r : Request n) : (decodeRequest r).wellFormed n = true := by
  unfold decodeRequest
  split
  all_goals simp only [Instr.wellFormed, indexFits_idx, Bool.and_self]

/-- Where every port is driven, the step adds nothing around exec: the sample is the state itself (R18). -/
theorem step_of_carries {n : Nat} {s : State} {r : Request n} (h : s.carries r) : step s = exec (decodeRequest r) s := by
  obtain ⟨y, samples, rfl⟩ := h
  rfl

/-- A number that decodes at the state's width is answered, once presented, by the instruction it decodes to (R41). -/
theorem step_presentNumber (s : State) {req : Nat} {i : Instr} (h : decodeNumber s.idxw req = .ok i) :
    step (s.presentNumber req) = exec i (s.presentNumber req) := by
  unfold decodeNumber at h
  split at h
  · obtain rfl := Except.ok.inj h
    exact step_of_carries (s.carries_present _)
  · contradiction

/-- A table word that decodes is a number that decodes at the default width (log 8). -/
theorem decodeNumber_of_decodeTableWord {nbits w : Nat} {i : Instr} (h : decodeTableWord nbits w = some i) :
    decodeNumber Config.idxw (w % 2 ^ nbits) = .ok i := by
  unfold decodeTableWord at h
  cases decoded : decodeNumber Config.idxw (w % 2 ^ nbits) with
  | ok j =>
    rw [decoded] at h
    exact congrArg Except.ok (Option.some.inj h)
  | error e =>
    rw [decoded] at h
    contradiction

/-- Settles O10: the ports carry the request, and withFetchWord presents the number that the decoder reads. -/
theorem stepRunsTheDecodedRequest : Obligations.StepRunsTheDecodedRequest := by
  refine ⟨fun n s r i hr hi => ?_, fun s nbits w i hi => ?_, fun s nbits w i hwidth hi => ?_⟩
  · subst hi
    exact ⟨step_of_carries hr, wellFormed_decodeRequest r⟩
  · rw [State.withFetchWord]
    exact step_presentNumber s hi
  · rw [State.withFetchWord]
    exact step_presentNumber s (by rw [hwidth, decodeNumber_of_decodeTableWord hi])

/-- The canonical request of every instruction is recognised by the row of its mnemonic alone (R39, R47). -/
theorem rowsOf_encodeRequest (n : Nat) (i : Instr) : Laws.OpcodeRow.rowsOf (encodeRequest n i).op = [i.mnemonic] := by
  cases i with
  | reserved101x x => exact Laws.OpcodeRow.reserved101x x n
  | reserved11xx xx => exact Laws.OpcodeRow.reserved11xx xx n
  | _ => exact Laws.OpcodeRow.rowsOf_code _

/-- Settles O6: encoding the decoded instruction gives the request's select code again. -/
theorem everyCodeHasExactlyOneRow : Obligations.EveryCodeHasExactlyOneRow := by
  intro n r
  have row := rowsOf_encodeRequest n (decodeRequest r)
  rw [encodeRequest_decodeRequest] at row
  exact row

/-- Settles O7, by running the decoder on each word. -/
theorem specWordsDecode : Obligations.SpecWordsDecode := by
  unfold Obligations.SpecWordsDecode
  refine ⟨?_, ?_, ?_, ?_, ?_, ?_⟩
  all_goals decide

/-- Settles O46: the codes of the two reserved rows, and the result that both answer. -/
theorem reservedCodesAnswerZero : Obligations.ReservedCodesAnswerZero := by
  refine ⟨fun n r hop => ⟨_, decodeRequest_of_reserved101x r ?_⟩,
    fun n r hop => ⟨_, decodeRequest_of_reserved11xx r hop⟩, fun x s => completesWith_iff.mpr rfl,
    fun xx s => completesWith_iff.mpr rfl⟩
  obtain hop | hop := hop
  · exact .inl (congrArg BitVec.toNat hop)
  · exact .inr (congrArg BitVec.toNat hop)

/-- Settles O48: exec drives `y` with the instruction's result, which no state takes part in. -/
theorem everyOperationWritesTheResultOnly : Obligations.EveryOperationWritesTheResultOnly :=
  fun i s s' => ⟨resultOf i, exec_eq i s, exec_eq i s'⟩

end Sys2Proof
end

section
/-! The index sums of copyBits and the forms of the validity tests (30_encoding.md R45, 40_bitfield.md R52, R59). -/

namespace Sys2Proof.Machine

/-- In two bits more than the ports have, the sum of two indices less one is exact (R45). -/
theorem toInt_indexSum {n : Nat} (hn : 0 < n) (v w : BitVec n) :
    (v.signExtend (n + 2) + w.signExtend (n + 2) - 1#(n + 2)).toInt = idx v + idx w - 1 := by
  have one : (1#(n + 2)).toInt = 1 := BitVec.toInt_one (by omega)
  have ⟨vLeast, vGreatest⟩ := (indexFits_iff n (idx v)).mp (indexFits_idx v)
  have ⟨wLeast, wGreatest⟩ := (indexFits_iff n (idx w)).mp (indexFits_idx w)
  rw [idx] at vLeast vGreatest wLeast wGreatest
  have double : (2 : Int) ^ n = 2 * 2 ^ (n - 1) := by rw [← pow_succ', Nat.sub_add_cancel hn]
  have bound : ((2 ^ (n + 2) : Nat) : Int) = 8 * 2 ^ (n - 1) := by
    push_cast
    rw [pow_add, double]
    ring
  have positive : (0 : Int) < 2 ^ (n - 1) := by positivity
  rw [BitVec.toInt_sub, BitVec.toInt_add, BitVec.toInt_signExtend_of_le (by omega),
    BitVec.toInt_signExtend_of_le (by omega), one, idx, idx, Int.bmod_eq_of_le (n := v.toInt + w.toInt),
    Int.bmod_eq_of_le]
  all_goals omega

/-- Settles O9: the sums are exact, and the largest length ends past bit 63 at every admitted width. -/
theorem indexSumsDoNotWrap : Obligations.IndexSumsDoNotWrap := by
  intro n (admitted : 8 ≤ n)
  refine ⟨toInt_indexSum (by omega), fun source dest dstLow s => ⟨by omega, completesWith_iff.mpr ?_⟩⟩
  refine copyBits_of_invalid source dest fun ⟨_, _, _, _, srcEnd, _⟩ => ?_
  have large : (2 : Int) ^ 7 ≤ 2 ^ (n - 1) := pow_le_pow_right₀ (by decide) (by omega)
  omega

/-- A range is invalid in one of three ways (R52). -/
theorem not_validRange_iff (low high : Int) : ¬validRange low high ↔ low < 0 ∨ high > 63 ∨ high < low := by
  omega

/-- The copy test without a sum of two operands (R59, R97). -/
theorem validCopy_iff_validCopyNoSum (srcLow dstLow length : Int) :
    validCopy srcLow dstLow length ↔ validCopyNoSum srcLow dstLow length := by
  omega

/-- Settles O28, by the other form of each test. -/
theorem validityTestForms : Obligations.ValidityTestForms :=
  ⟨not_validRange_iff, validCopy_iff_validCopyNoSum, validByte_iff_validRange⟩

end Sys2Proof.Machine
end

section
/-! The hardware forms: the barrel shifter of getBits, the lane multiplexer, and the mask with its whole-word case
(40_bitfield.md R54, R58; 41_bytelane.md R67). -/

namespace Sys2Proof.Machine

/-- The barrel shifter reads bit low + k, and the left shift has dropped the bits above `high` (R54). -/
theorem getBitsDatapath_eq_getBits (source : Word) (low high : Int) :
    getBitsDatapath source low high = getBits source low high := by
  by_cases valid : validRange low high
  case neg => rw [getBits_of_invalid source valid, getBitsDatapath, dif_neg valid]
  case pos =>
    refine BitVec.eq_of_getLsbD_eq fun k hk => ?_
    rw [getBitsDatapath, dif_pos valid, getLsbD_lshr, getLsbD_shl, getLsbD_getBits source valid]
    have kept : (63 - high + low).toNat + k < 64 ↔ (k : Int) ≤ high - low := by omega
    have above : ¬(63 - high + low).toNat + k < (63 - high).toNat := by omega
    have place : (63 - high + low).toNat + k - (63 - high).toNat = low.toNat + k := by omega
    simp only [kept, above, place, decide_false, Bool.not_false, Bool.and_true]

/-- Settles O21, bit by bit on a valid pair and by Zero-on-invalid elsewhere. -/
theorem getBitsShifterFormIsGetBits : Obligations.GetBitsShifterFormIsGetBits := getBitsDatapath_eq_getBits

/-- getByte is getBits on the range of the lane for every index: both give 0 where it is invalid (R67). -/
theorem getByte_eq_getBits (source : Word) (i : Int) : getByte source i = getBits source (8 * i) (8 * i + 7) := by
  by_cases valid : validByte i
  case neg =>
    rw [getByte_of_invalid source valid, getBits_of_invalid source (mt (validByte_iff_validRange i).mpr valid)]
  case pos =>
    have eight : rangeLength (8 * i) (8 * i + 7) = 8 := by unfold rangeLength; omega
    rw [getByte_of_valid source valid, getBits_of_valid source ((validByte_iff_validRange i).mp valid), eight]

/-- The lane multiplexer is the barrel shifter on the range of the lane (R67). -/
theorem getByteDatapath_eq_getBitsDatapath (source : Word) (i : Int) :
    getByteDatapath source i = getBitsDatapath source (8 * i) (8 * i + 7) := by
  by_cases valid : validByte i
  case neg =>
    rw [getByteDatapath, dif_neg valid, getBitsDatapath, dif_neg (mt (validByte_iff_validRange i).mpr valid)]
  case pos =>
    have left : 56 - 8 * i = 63 - (8 * i + 7) := by omega
    have right : 56 = (63 - (8 * i + 7) + 8 * i).toNat := by omega
    simp only [getByteDatapath, getBitsDatapath, dif_pos valid, dif_pos ((validByte_iff_validRange i).mp valid), left]
    exact congrArg (lshr _) (Fin.ext right)

/-- Settles O34: the lane multiplexer is the barrel shifter, which is getBits, on the range of the lane. -/
theorem getByteIsGetBitsOnTheLane : Obligations.GetByteIsGetBitsOnTheLane := fun source i =>
  ⟨getByte_eq_getBits source i,
    by rw [getByteDatapath_eq_getBitsDatapath, getBitsDatapath_eq_getBits, getByte_eq_getBits]⟩

/-- The value of `n` one bits (00_scope.md R11). -/
theorem toNat_ones (n : Fin 65) : (ones n).toNat = 2 ^ n.val - 1 := by
  have bound : 2 ^ n.val ≤ 2 ^ 64 := Nat.pow_le_pow_right (by decide) (by omega)
  have positive : 0 < 2 ^ n.val := Nat.two_pow_pos n.val
  rw [ones, zext64, BitVec.toNat_setWidth, BitVec.toNat_allOnes, Nat.mod_eq_of_lt (by omega)]

/-- The mask of a shifter short of the whole word: `shl(1, n) - 1` is `n` one bits (R58). -/
theorem shl_one_sub_one (n : Fin 64) : shl 1 n - 1 = ones n.castSucc := by
  have bound : 2 ^ n.val < 2 ^ 64 := Nat.pow_lt_pow_right (by decide) n.isLt
  have positive : 0 < 2 ^ n.val := Nat.two_pow_pos n.val
  refine BitVec.eq_of_toNat_eq ?_
  have one : (1 : Word).toNat = 1 := rfl
  rw [toNat_ones, BitVec.toNat_sub, toNat_shl, one, Nat.one_mul, Fin.val_castSucc]
  omega

/-- The mask of a valid range of 64 bits is the whole word (R58). -/
theorem fieldMask_whole {low high : Int} (h : validRange low high) (whole : rangeLength low high = 64) :
    fieldMask low high h = BitVec.allOnes 64 := by
  have bits : (rangeLength low high : Int) = high - low + 1 := rangeLength_cast low high h.2.1
  refine BitVec.eq_of_getLsbD_eq fun k hk => ?_
  have inside : low ≤ k ∧ (k : Int) ≤ high := by omega
  rw [getLsbD_fieldMask, BitVec.getLsbD_allOnes, ← Bool.decide_and, decide_eq_true inside, decide_eq_true hk]

/-- Settles O25: the whole word is a case of its own, and otherwise the shifted mask has its `n` one bits. -/
theorem maskByShifterIsFieldMask : Obligations.MaskByShifterIsFieldMask := by
  intro low high h
  unfold fieldMaskDatapath
  split
  case isTrue whole => exact (fieldMask_whole h whole).symm
  case isFalse short =>
    rw [shl_one_sub_one]
    rfl

end Sys2Proof.Machine
end

section
/-! The laws of the bit-field family, and what an invalid operand gives (40_bitfield.md section 7, 60_exceptions.md
section 1). -/

namespace Sys2Proof.Machine

/-- Setting a range twice is setting it once. -/
@[simp] theorem setBits_setBits (w : Word) (low high : Int) :
    setBits (setBits w low high) low high = setBits w low high := by
  by_cases valid : validRange low high
  case neg => simp only [setBits_of_invalid _ valid]
  case pos => rw [setBits_of_valid _ valid, setBits_of_valid w valid, BitVec.or_assoc, BitVec.or_self]

/-- Clearing a range twice is clearing it once. -/
@[simp] theorem clearBits_clearBits (w : Word) (low high : Int) :
    clearBits (clearBits w low high) low high = clearBits w low high := by
  by_cases valid : validRange low high
  case neg => simp only [clearBits_of_invalid _ valid]
  case pos => rw [clearBits_of_valid _ valid, clearBits_of_valid w valid, BitVec.and_assoc, BitVec.and_self]

/-- What was set in a range is lost when the range is cleared. -/
@[simp] theorem clearBits_setBits (w : Word) (low high : Int) :
    clearBits (setBits w low high) low high = clearBits w low high := by
  by_cases valid : validRange low high
  case neg => rw [setBits_of_invalid w valid]
  case pos =>
    refine BitVec.eq_of_getLsbD_eq fun k hk => ?_
    rw [getLsbD_clearBits _ valid k hk, getLsbD_clearBits w valid k hk, getLsbD_setBits w valid]
    split
    · rfl
    · rfl

/-- Settles O29: the three laws hold of the field mask on a valid range, and of the unchanged Word on an invalid one. -/
theorem setAndClearLaws : Obligations.SetAndClearLaws := fun w low high =>
  ⟨setBits_setBits w low high, clearBits_clearBits w low high, clearBits_setBits w low high⟩

/-- A field is below 2 to the number of its bits. -/
theorem toNat_getBits_lt (w : Word) {low high : Int} (h : validRange low high) :
    (getBits w low high).toNat < 2 ^ rangeLength low high := by
  rw [getBits_of_valid w h, zext64, BitVec.toNat_setWidth]
  exact (Nat.mod_le _ _).trans_lt (BitVec.isLt _)

/-- Reading a range that was set gives ones. -/
theorem getBits_setBits (w : Word) {low high : Int} (h : validRange low high) :
    getBits (setBits w low high) low high = ones ⟨rangeLength low high, rangeLength_lt low high h⟩ := by
  have bits : (rangeLength low high : Int) = high - low + 1 := rangeLength_cast low high h.2.1
  refine BitVec.eq_of_getLsbD_eq fun k hk => ?_
  have length : k < rangeLength low high ↔ (k : Int) ≤ high - low := by omega
  rw [getLsbD_getBits _ h, getLsbD_setBits w h, getLsbD_ones, decide_eq_true hk, Bool.true_and,
    decide_eq_decide.mpr length]
  by_cases within : (k : Int) ≤ high - low
  · have inside : low ≤ (low.toNat + k : Nat) ∧ ((low.toNat + k : Nat) : Int) ≤ high := by omega
    rw [if_pos inside, Bool.and_true]
  · rw [decide_eq_false within, Bool.false_and]

/-- Reading a range that was cleared gives zero. -/
theorem getBits_clearBits (w : Word) {low high : Int} (h : validRange low high) :
    getBits (clearBits w low high) low high = 0 := by
  refine BitVec.eq_of_getLsbD_eq fun k hk => ?_
  rw [getLsbD_getBits _ h, BitVec.ofNat_eq_ofNat, BitVec.getLsbD_zero]
  by_cases within : (k : Int) ≤ high - low
  · have inside : low ≤ (low.toNat + k : Nat) ∧ ((low.toNat + k : Nat) : Int) ≤ high := by omega
    rw [getLsbD_clearBits w h _ (by omega), if_pos inside, Bool.and_false]
  · rw [decide_eq_false within, Bool.false_and]

/-- Settles O30: the field read back is that of a slice, of `n` one bits, and of the zero Word. -/
theorem readBackLaws : Obligations.ReadBackLaws := by
  intro w low high h
  have allOnes : (getBits (setBits w low high) low high).toNat = 2 ^ rangeLength low high - 1 := by
    rw [getBits_setBits w h, toNat_ones]
  exact ⟨toNat_getBits_lt w h, allOnes, getBits_clearBits w h⟩

/-- Copying the whole word gives the source. -/
@[simp] theorem copyBits_whole (source dest : Word) : copyBits source dest 0 0 64 = source := by
  refine BitVec.eq_of_getLsbD_eq fun k hk => ?_
  rw [getLsbD_copyBits source dest (by decide) (by decide) k hk, if_pos (by omega)]
  exact congrArg source.getLsbD (by omega)

/-- A copied field reads back as the source field. -/
theorem getBits_copyBits (source dest : Word) {srcLow dstLow length : Int} (h : validCopy srcLow dstLow length)
    (nonempty : 1 ≤ length) :
    getBits (copyBits source dest srcLow dstLow length) dstLow (dstLow + length - 1) =
      getBits source srcLow (srcLow + length - 1) := by
  obtain ⟨src, dst⟩ := validRange_of_validCopy h nonempty
  refine BitVec.eq_of_getLsbD_eq fun k hk => ?_
  rw [getLsbD_getBits _ dst, getLsbD_getBits source src]
  have sameLength : dstLow + length - 1 - dstLow = srcLow + length - 1 - srcLow := by omega
  rw [sameLength]
  by_cases within : (k : Int) ≤ srcLow + length - 1 - srcLow
  · have inside : dstLow ≤ (dstLow.toNat + k : Nat) ∧ ((dstLow.toNat + k : Nat) : Int) ≤ dstLow + length - 1 := by
      omega
    have place : (((dstLow.toNat + k : Nat) : Int) - dstLow + srcLow).toNat = srcLow.toNat + k := by omega
    rw [getLsbD_copyBits source dest h nonempty _ (by omega), if_pos inside, place]
  · rw [decide_eq_false within, Bool.false_and, Bool.false_and]

/-- Settles O31, by the bits after a copy. -/
theorem copyReadBackLaws : Obligations.CopyReadBackLaws :=
  ⟨copyBits_whole, fun source dest _ _ _ => getBits_copyBits source dest⟩

/-- No bit of the zero Word is moved anywhere. -/
@[simp] theorem zero_shl (n : Fin 64) : shl 0 n = 0 := BitVec.zero_shiftLeft n.val

/-- A copy of nothing: no field is cleared and none is moved in, as both ranges are empty (R61). -/
theorem copyBits_of_length_nonpos (source dest : Word) (srcLow dstLow : Int) {length : Int} (h : length ≤ 0) :
    copyBits source dest srcLow dstLow length = dest := by
  by_cases valid : validCopy srcLow dstLow length
  case neg => exact copyBits_of_invalid source dest valid
  case pos =>
    have nothingRead : ¬validRange srcLow (srcLow + length - 1) := by omega
    have nothingCleared : ¬validRange dstLow (dstLow + length - 1) := by omega
    rw [copyBits_of_valid source dest valid, clearBits_of_invalid dest nothingCleared,
      getBits_of_invalid source nothingRead, zero_shl]
    exact BitVec.or_zero

/-- Settles O27, by what both steps of the composition do on an empty range. -/
theorem copyOfNothingReturnsDest : Obligations.CopyOfNothingReturnsDest :=
  fun source dest srcLow dstLow _ _ h => completesWith_iff.mpr (copyBits_of_length_nonpos source dest srcLow dstLow h)

/-- Settles O47: each row's condition makes its operand invalid, or the copy one of nothing. -/
theorem sentinelTable : Obligations.SentinelTable := by
  intro source dest i low high srcLow dstLow length s
  simp only [completesWith_iff]
  refine ⟨fun violated => ?_, fun outside => ?_, fun violated => ?_⟩
  · have invalid : ¬validRange low high := (not_validRange_iff low high).mpr violated
    exact ⟨getBits_of_invalid source invalid, setBits_of_invalid source invalid, clearBits_of_invalid source invalid⟩
  · have invalid : ¬validByte i := by omega
    exact ⟨getByte_of_invalid source invalid, setByte_of_invalid source invalid⟩
  · by_cases nothing : length ≤ 0
    · exact copyBits_of_length_nonpos source dest srcLow dstLow nothing
    · exact copyBits_of_invalid source dest (by omega)

end Sys2Proof.Machine
end

section
/-! The lanes of a Word after its lane operations, and the obligations about them (41_bytelane.md section 5). -/

namespace Sys2Proof.Machine

/-- getByte gives the lane of its index, zero-extended (R66). -/
theorem getByte_eq_zext64_lane (w : Word) (k : Fin 8) : getByte w k.val = zext64 (lane w k) := by
  have start : (8 * (k.val : Int)).toNat = 8 * k.val := by omega
  rw [getByte_of_valid w (by omega), start]
  rfl

/-- The eight bits that begin at 8j lie in the range of lane i exactly when the lanes are the same (20_memory.md R31). -/
theorem mem_laneRange_iff (i j : Fin 8) {k : Nat} (hk : k < 8) :
    8 * (i.val : Int) ≤ (8 * j.val + k : Nat) ∧ ((8 * j.val + k : Nat) : Int) ≤ 8 * (i.val : Int) + 7 ↔ j = i := by
  omega

/-- setByte fills its own lane with ones and leaves the others (R68). -/
theorem lane_setByte (w : Word) (i j : Fin 8) : lane (setByte w i.val) j = if j = i then 0xFF else lane w j := by
  refine BitVec.eq_of_getLsbD_eq fun k hk => ?_
  rw [setByte_eq_setBits, getLsbD_lane, getLsbD_setBits w (by omega), if_congr (mem_laneRange_iff i j hk) rfl rfl]
  split
  case isTrue same =>
    revert k
    decide
  case isFalse other => rw [getLsbD_lane]

/-- A lane clear by composition: clearBits on the range of lane i zeroes it and leaves the others. -/
theorem lane_clearBits (w : Word) (i j : Fin 8) :
    lane (clearBits w (8 * (i.val : Int)) (8 * (i.val : Int) + 7)) j = if j = i then 0 else lane w j := by
  refine BitVec.eq_of_getLsbD_eq fun k hk => ?_
  rw [getLsbD_lane, getLsbD_clearBits w (by omega) _ (by omega), if_congr (mem_laneRange_iff i j hk) rfl rfl]
  split
  case isTrue same => rw [Bool.and_false, BitVec.ofNat_eq_ofNat, BitVec.getLsbD_zero]
  case isFalse other => rw [getLsbD_lane]

/-- A byte insert by composition: copyBits of eight bits to lane i writes the Byte there and leaves the others. -/
theorem lane_copyBits (w : Word) (v : Byte) (i j : Fin 8) :
    lane (copyBits (v.setWidth 64) w 0 (8 * (i.val : Int)) 8) j = if j = i then v else lane w j := by
  refine BitVec.eq_of_getLsbD_eq fun k hk => ?_
  have last : 8 * (i.val : Int) + 8 - 1 = 8 * (i.val : Int) + 7 := by omega
  rw [getLsbD_lane, getLsbD_copyBits _ w (by omega) (by decide) _ (by omega), last,
    if_congr (mem_laneRange_iff i j hk) rfl rfl]
  split
  case isTrue same =>
    have place : (((8 * j.val + k : Nat) : Int) - 8 * (i.val : Int) + 0).toNat = k := by omega
    rw [place, BitVec.getLsbD_setWidth, decide_eq_true hk, decide_eq_true (by omega), Bool.true_and, Bool.true_and]
  case isFalse other => rw [getLsbD_lane]

/-- Settles O36: getByte reads a lane, and a Word is determined by its lanes. -/
theorem byteLaneLaws : Obligations.ByteLaneLaws := by
  refine ⟨fun bytes k => ?_, fun w bytes h => eq_of_lane_eq fun k => ?_, fun w i j => ?_⟩
  · rw [getByte_eq_zext64_lane, lane_buildWord]
    rfl
  · rw [lane_buildWord, h, getByte_eq_zext64_lane]
    exact BitVec.setWidth_setWidth_of_le _ (by decide)
  · simp only [getByte_eq_zext64_lane, lane_setByte]
    exact ⟨rfl, fun other => by rw [if_neg other.symm]⟩

/-- Settles O38, by the lanes after each composition. -/
theorem laneClearAndByteInsert : Obligations.LaneClearAndByteInsert :=
  fun w v i j => ⟨lane_clearBits w i j, lane_copyBits w v i j⟩

end Sys2Proof.Machine
end

section
/-! The overflow verdicts against exact integer arithmetic (42_sign_overflow.md R74, R77). -/

namespace Sys2Proof.Machine

/-- The addition verdict is the library's signed overflow of a sum, which is stated on the exact integers. -/
theorem addOverflows_eq_saddOverflow (op1 op2 : Word) : addOverflows op1 op2 = op1.saddOverflow op2 := by
  rw [BitVec.saddOverflow_eq]
  simp only [addOverflows, signBit_eq_msb]
  rfl

/-- The subtraction verdict is the library's signed overflow of a difference, second operand minus first (R76). -/
theorem subOverflows_eq_ssubOverflow (op1 op2 : Word) : subOverflows op1 op2 = op2.ssubOverflow op1 := by
  rw [BitVec.ssubOverflow_eq, Bool.or_comm, Bool.and_comm (!op2.msb), Bool.and_comm op2.msb]
  simp only [subOverflows, signBit_eq_msb]

/-- An addition overflows exactly when the exact sum is no two's-complement value of a Word (R74). -/
theorem addOverflows_iff_exact (op1 op2 : Word) :
    addOverflows op1 op2 = true ↔
      ¬(-2 ^ 63 ≤ signedValue op1 + signedValue op2 ∧ signedValue op1 + signedValue op2 ≤ 2 ^ 63 - 1) := by
  simp only [addOverflows_eq_saddOverflow, BitVec.saddOverflow, signedValue, Bool.or_eq_true, decide_eq_true_eq]
  omega

/-- A subtraction overflows exactly when the exact difference is no two's-complement value of a Word (R77). -/
theorem subOverflows_iff_exact (op1 op2 : Word) :
    subOverflows op1 op2 = true ↔
      ¬(-2 ^ 63 ≤ signedValue op2 - signedValue op1 ∧ signedValue op2 - signedValue op1 ≤ 2 ^ 63 - 1) := by
  simp only [subOverflows_eq_ssubOverflow, BitVec.ssubOverflow, signedValue, Bool.or_eq_true, decide_eq_true_eq]
  omega

/-- Settles O41: the encoded verdict of the exact form. -/
theorem addOverflowIsTrueOverflow : Obligations.AddOverflowIsTrueOverflow := by
  intro op1 op2 s
  rw [completesWith_iff, ← ite_not]
  exact zextBool_eq_ite (addOverflows_iff_exact op1 op2)

/-- Settles O44: the encoded verdict of the exact form. -/
theorem subOverflowIsTrueOverflow : Obligations.SubOverflowIsTrueOverflow := by
  intro op1 op2 s
  rw [completesWith_iff, ← ite_not]
  exact zextBool_eq_ite (subOverflows_iff_exact op1 op2)

end Sys2Proof.Machine
end

section
/-! What the assembler accepts, and the second spellings (30_encoding.md R50, R51). -/

namespace Sys2Proof.Machine

/-- What goes through in two parts goes through in the first, and then in the second. -/
theorem exists_of_bind_eq_ok {ε α β : Type} {x : Except ε α} {f : α → Except ε β} {b : β} (h : x >>= f = .ok b) :
    ∃ a, x = .ok a ∧ f a = .ok b := by
  cases x with
  | ok a => exact ⟨a, rfl, h⟩
  | error e => contradiction

/-- A checked Index that comes out has passed the check. -/
theorem indexFits_of_checked {n : Nat} {value j : Int} {e : AsmError}
    (h : (if indexFits n value then .ok value else .error e) = Except.ok j) : indexFits n j = true := by
  split at h
  case isTrue fits => exact Except.ok.inj h ▸ fits
  case isFalse => contradiction

/-- An Index operand that the assembler takes is one the port represents (R50). -/
theorem indexFits_of_indexOperand {n : Nat} {x : Scalar} {j : Int} (h : indexOperand n x = .ok j) :
    indexFits n j = true := by
  cases x with
  | hex digits value => exact indexFits_of_checked h
  | dec negative value => exact indexFits_of_checked h
  | name target => contradiction

/-- What the assembler accepts is well-formed: each Index operand has passed the check, and no other operand can be out
of range (R50). -/
theorem wellFormed_of_assembleCall {n : Nat} {env : Bindings} {c : Call} {i : Instr}
    (h : assembleCall n env c = .ok i) : i.wellFormed n = true := by
  unfold assembleCall at h
  split at h
  case h_1 => contradiction
  case h_2 =>
    split at h
    case h_1 => -- Eight Bytes.
      iterate 8 obtain ⟨_, -, h⟩ := exists_of_bind_eq_ok h
      obtain rfl := Except.ok.inj h
      rfl
    case h_2 | h_7 => -- A Word and an Index.
      obtain ⟨source, -, h⟩ := exists_of_bind_eq_ok h
      obtain ⟨byteIndex, hIndex, h⟩ := exists_of_bind_eq_ok h
      obtain rfl := Except.ok.inj h
      exact indexFits_of_indexOperand hIndex
    case h_3 | h_4 | h_5 => -- A Word and the two ends of a range.
      obtain ⟨source, -, h⟩ := exists_of_bind_eq_ok h
      obtain ⟨low, hLow, h⟩ := exists_of_bind_eq_ok h
      obtain ⟨high, hHigh, h⟩ := exists_of_bind_eq_ok h
      obtain rfl := Except.ok.inj h
      simp only [Instr.wellFormed, indexFits_of_indexOperand hLow, indexFits_of_indexOperand hHigh, Bool.and_self]
    case h_6 => -- Two Words, two lower ends and a length.
      obtain ⟨source, -, h⟩ := exists_of_bind_eq_ok h
      obtain ⟨dest, -, h⟩ := exists_of_bind_eq_ok h
      obtain ⟨srcLow, hSrc, h⟩ := exists_of_bind_eq_ok h
      obtain ⟨dstLow, hDst, h⟩ := exists_of_bind_eq_ok h
      obtain ⟨length, hLength, h⟩ := exists_of_bind_eq_ok h
      obtain rfl := Except.ok.inj h
      simp only [Instr.wellFormed, indexFits_of_indexOperand hSrc, indexFits_of_indexOperand hDst,
        indexFits_of_indexOperand hLength, Bool.and_self]
    case h_8 => -- One Word.
      obtain ⟨source, -, h⟩ := exists_of_bind_eq_ok h
      obtain rfl := Except.ok.inj h
      rfl
    case h_9 | h_10 => -- Two Words.
      obtain ⟨op1, -, h⟩ := exists_of_bind_eq_ok h
      obtain ⟨op2, -, h⟩ := exists_of_bind_eq_ok h
      obtain rfl := Except.ok.inj h
      rfl
    case h_11 => contradiction

/-- Settles O51: what is accepted is well-formed, so the decoder inverts the encoder on it. -/
theorem assemblerOutputIsWellFormed : Obligations.AssemblerOutputIsWellFormed := by
  intro n env c i (admitted : 8 ≤ n) accepted
  have fits : i.wellFormed n = true := wellFormed_of_assembleCall accepted
  exact ⟨fits, decodeRequest_encodeRequest (by omega) fits⟩

/-- The assembler reads a mnemonic only for the operation it names (R51). -/
theorem assembleCall_eq_of_operationNamed {mnemonic mnemonic' : Name}
    (h : operationNamed mnemonic = operationNamed mnemonic') (n : Nat) (env : Bindings) (target : Option Name)
    (args : List Arg) : assembleCall n env ⟨target, mnemonic, args⟩ = assembleCall n env ⟨target, mnemonic', args⟩ := by
  unfold assembleCall
  rw [h]

/-- Settles O52: each second spelling names the operation of the first. -/
theorem secondSpellingsAssembleAlike : Obligations.SecondSpellingsAssembleAlike := fun n env target args =>
  ⟨assembleCall_eq_of_operationNamed (by decide) n env target args,
    assembleCall_eq_of_operationNamed (by decide) n env target args⟩

end Sys2Proof.Machine
end

section
/-! A host's list of lines: the block carries nothing from one line to the next but its index width (10_state.md R21,
70_reset_and_hazards.md R103). -/

namespace Sys2Proof.Machine

/-- Whether a line of the host presents a request. -/
def HostLine.isRequest : HostLine → Bool
  | .request _ => true
  | .choose _ _ _ _ => false

/-- A request line shows F of its request and leaves the block that carries it to the lines after it. -/
theorem runLines_request (s : State) (env : Bindings) (call : Call) (rest : List HostLine) :
    runLines s env (.request call :: rest) = (do
      let i ← assembleCall s.idxw env call
      let y := blockFunction (encodeRequest s.idxw i)
      let (ys, final) ← runLines (s.present (encodeRequest s.idxw i)) (bindResult env call.target y) rest
      return (y :: ys, final)) := by
  simp only [runLines, step_present, State.present_y]

/-- A choice line binds its name to the Word of one of two names and leaves the block as it is. -/
theorem runLines_choose (s : State) (env : Bindings) (target cond ifOne ifZero : Name) (rest : List HostLine) :
    runLines s env (.choose target cond ifOne ifZero :: rest) = (do
      let verdict ← boundTo env cond
      let w ← boundTo env (if verdict = 1 then ifOne else ifZero)
      runLines s ((target, w) :: env) rest) := by
  rw [runLines]
  refine congrArg (boundTo env cond >>= ·) (funext fun verdict => ?_)
  split
  · rfl
  · rfl

/-- The results depend on the index width alone. -/
theorem runLines_eq_of_idxw_eq {s s' : State} (env : Bindings) (lines : List HostLine) (h : s.idxw = s'.idxw) :
    runLines s env lines = runLines s' env lines := by
  induction lines generalizing s s' env with
  | nil => rfl
  | cons line rest ih =>
    cases line with
    | request call =>
      have later : ∀ i env', runLines (s.present (encodeRequest s.idxw i)) env' rest =
          runLines (s'.present (encodeRequest s'.idxw i)) env' rest := fun i env' => ih env' h
      simp only [runLines_request, later]
      rw [h]
    | choose target cond ifOne ifZero =>
      simp only [runLines_choose, ih _ h]

/-- A list that runs gives one `y` for each line that presents a request. -/
theorem length_of_runLines {s : State} {env final : Bindings} {lines : List HostLine} {ys : List Word}
    (h : runLines s env lines = .ok (ys, final)) : ys.length = (lines.filter HostLine.isRequest).length := by
  induction lines generalizing s env ys with
  | nil =>
    obtain ⟨rfl, -⟩ := Prod.mk.inj (Except.ok.inj h)
    rfl
  | cons line rest ih =>
    cases line with
    | request call =>
      rw [runLines_request] at h
      obtain ⟨i, -, h⟩ := exists_of_bind_eq_ok h
      obtain ⟨⟨later, last⟩, hrest, h⟩ := exists_of_bind_eq_ok h
      obtain ⟨rfl, rfl⟩ := Prod.mk.inj (Except.ok.inj h)
      rw [List.length_cons, ih hrest, List.filter_cons_of_pos rfl, List.length_cons]
    | choose target cond ifOne ifZero =>
      rw [runLines_choose] at h
      obtain ⟨verdict, -, h⟩ := exists_of_bind_eq_ok h
      obtain ⟨w, -, hrest⟩ := exists_of_bind_eq_ok h
      rw [ih hrest, List.filter_cons_of_neg Bool.false_ne_true]

/-- Settles O53, by induction on the lines: the block enters through its index width alone, and a request line adds one
`y`. -/
theorem hostLinesDoNotDependOnTheBlock : Obligations.HostLinesDoNotDependOnTheBlock :=
  fun _ _ env lines => ⟨runLines_eq_of_idxw_eq env lines, fun _ _ => length_of_runLines⟩

end Sys2Proof.Machine
end
